-- ==== Sys2Proof/Word.lean ====
section
/-! DEFINITION. The words of the machine (spec 00_scope.md R5, R7, R8): every value is unsigned, bit 0 is the
least significant bit, `a ++ b` is concatenation with `a` in the high bits. -/

namespace Sys2Proof

/-- An 8-bit value: a general register, a timer, a memory byte, the field NN (R20, R27, R29, R92). -/
abbrev Byte := BitVec 8

/-- A 16-bit value: the index register, the program counter, a stack slot, an opcode (R22, R23, R26, R33). -/
abbrev Word := BitVec 16

/-- A 12-bit address, the field NNN (R92). -/
abbrev Addr12 := BitVec 12

/-- The number of a general register, 0 to 15 (R20); the fields X and Y (R92). -/
abbrev Reg := Fin 16

/-- The number of a key, 0x0 to 0xF (R32). -/
abbrev Key := Fin 16

/-- The index of a pixel, `y*64 + x`, 0 to 2047 (R30, R75). -/
abbrev PixelIndex := Fin 2048

end Sys2Proof
end

