-- ==== Sys2Proof/Syntax.lean ====
section
/-! DEFINITION. The instruction set: one constructor per row of spec/opcode_table.json, in the table's order
(30_encoding.md R95). X and Y are register numbers, NN a byte, NNN a 12-bit address, N a row count 0 to 15 (R92,
R93). -/

namespace Sys2Proof

inductive Instr where
  /-- `00E0` CLS (R200). -/
  | cls
  /-- `00EE` RET (R150). -/
  | ret
  /-- `1NNN` JP NNN (R151). -/
  | jp (nnn : Addr12)
  /-- `2NNN` CALL NNN (R152). -/
  | call (nnn : Addr12)
  /-- `3XNN` SE Vx, NN (R160). -/
  | seImm (x : Reg) (nn : Byte)
  /-- `4XNN` SNE Vx, NN (R161). -/
  | sneImm (x : Reg) (nn : Byte)
  /-- `5XY0` SE Vx, Vy (R162). -/
  | seReg (x y : Reg)
  /-- `6XNN` LD Vx, NN (R170). -/
  | ldImm (x : Reg) (nn : Byte)
  /-- `7XNN` ADD Vx, NN (R171). -/
  | addImm (x : Reg) (nn : Byte)
  /-- `8XY0` LD Vx, Vy (R181). -/
  | ldReg (x y : Reg)
  /-- `8XY1` OR Vx, Vy (R182). -/
  | orReg (x y : Reg)
  /-- `8XY2` AND Vx, Vy (R183). -/
  | andReg (x y : Reg)
  /-- `8XY3` XOR Vx, Vy (R184). -/
  | xorReg (x y : Reg)
  /-- `8XY4` ADD Vx, Vy (R185). -/
  | addReg (x y : Reg)
  /-- `8XY5` SUB Vx, Vy (R186). -/
  | subReg (x y : Reg)
  /-- `8XY6` SHR Vx, Vy (R187). -/
  | shrReg (x y : Reg)
  /-- `8XY7` SUBN Vx, Vy (R188). -/
  | subnReg (x y : Reg)
  /-- `8XYE` SHL Vx, Vy (R189). -/
  | shlReg (x y : Reg)
  /-- `9XY0` SNE Vx, Vy (R163). -/
  | sneReg (x y : Reg)
  /-- `ANNN` LD I, NNN (R172). -/
  | ldI (nnn : Addr12)
  /-- `BNNN` JP V0, NNN (R153). -/
  | jpV0 (nnn : Addr12)
  /-- `CXNN` RND Vx, NN (R173). -/
  | rnd (x : Reg) (nn : Byte)
  /-- `DXYN` DRW Vx, Vy, N (R201). -/
  | drw (x y : Reg) (n : Fin 16)
  /-- `EX9E` SKP Vx (R164). -/
  | skp (x : Reg)
  /-- `EXA1` SKNP Vx (R165). -/
  | sknp (x : Reg)
  /-- `FX07` LD Vx, DT (R220). -/
  | ldVxDt (x : Reg)
  /-- `FX0A` LD Vx, K (R221). -/
  | ldVxKey (x : Reg)
  /-- `FX15` LD DT, Vx (R222). -/
  | ldDtVx (x : Reg)
  /-- `FX18` LD ST, Vx (R223). -/
  | ldStVx (x : Reg)
  /-- `FX1E` ADD I, Vx (R230). -/
  | addI (x : Reg)
  /-- `FX29` LD F, Vx (R231). -/
  | ldFont (x : Reg)
  /-- `FX33` LD B, Vx (R232). -/
  | ldBcd (x : Reg)
  /-- `FX55` LD [I], Vx (R233). -/
  | storeRegs (x : Reg)
  /-- `FX65` LD Vx, [I] (R234). -/
  | loadRegs (x : Reg)
  deriving DecidableEq, Repr

end Sys2Proof
end

