-- ==== Sys2Proof/Decode.lean ====
section
/-! DEFINITION. The decoder (spec 30_encoding.md R90 to R99) and the encoder, written from the same patterns (R91,
R95). -/

namespace Sys2Proof

/-! ## The fields of an opcode (R92) -/

/-- `major = op[15:12]`, the top nibble. -/
def opMajor (op : Word) : BitVec 4 := op.extractLsb' 12 4

/-- `X = op[11:8]`. -/
def opX (op : Word) : Reg := (op.extractLsb' 8 4).toFin

/-- `Y = op[7:4]`. -/
def opY (op : Word) : Reg := (op.extractLsb' 4 4).toFin

/-- `N = op[3:0]`, the low nibble. -/
def opN (op : Word) : BitVec 4 := op.extractLsb' 0 4

/-- `NN = op[7:0]`, the low byte. -/
def opNN (op : Word) : Byte := op.extractLsb' 0 8

/-- `NNN = op[11:0]`. -/
def opNNN (op : Word) : Addr12 := op.extractLsb' 0 12

/-- Family 0x0 (R94): only `00E0` and `00EE` are defined. -/
def decodeFixed (op : Word) : Option Instr :=
  if op = 0x00E0#16 then some .cls else if op = 0x00EE#16 then some .ret else none

/-- Families 0x5 and 0x9 (R94): the low nibble must be 0 (D13). -/
def decodeXY0 (op : Word) (form : Reg → Reg → Instr) : Option Instr :=
  if opN op = 0x0#4 then some (form (opX op) (opY op)) else none

/-- Family 0x8 (R94): dispatch by the low nibble. -/
def decodeAlu (op : Word) : Option Instr :=
  match opN op with
  | 0x0#4 => some (.ldReg (opX op) (opY op))
  | 0x1#4 => some (.orReg (opX op) (opY op))
  | 0x2#4 => some (.andReg (opX op) (opY op))
  | 0x3#4 => some (.xorReg (opX op) (opY op))
  | 0x4#4 => some (.addReg (opX op) (opY op))
  | 0x5#4 => some (.subReg (opX op) (opY op))
  | 0x6#4 => some (.shrReg (opX op) (opY op))
  | 0x7#4 => some (.subnReg (opX op) (opY op))
  | 0xE#4 => some (.shlReg (opX op) (opY op))
  | _ => none

/-- Family 0xE (R94): dispatch by the low byte. -/
def decodeKeySkip (op : Word) : Option Instr :=
  match opNN op with
  | 0x9E#8 => some (.skp (opX op))
  | 0xA1#8 => some (.sknp (opX op))
  | _ => none

/-- Family 0xF (R94): dispatch by the low byte. -/
def decodeMisc (op : Word) : Option Instr :=
  match opNN op with
  | 0x07#8 => some (.ldVxDt (opX op))
  | 0x0A#8 => some (.ldVxKey (opX op))
  | 0x15#8 => some (.ldDtVx (opX op))
  | 0x18#8 => some (.ldStVx (opX op))
  | 0x1E#8 => some (.addI (opX op))
  | 0x29#8 => some (.ldFont (opX op))
  | 0x33#8 => some (.ldBcd (opX op))
  | 0x55#8 => some (.storeRegs (opX op))
  | 0x65#8 => some (.loadRegs (opX op))
  | _ => none

/-- The decode algorithm of R94: a total function from the 65536 opcodes to the 34 forms; `none` is `Unknown`. -/
def decode (op : Word) : Option Instr :=
  match opMajor op with
  | 0x0#4 => decodeFixed op
  | 0x1#4 => some (.jp (opNNN op))
  | 0x2#4 => some (.call (opNNN op))
  | 0x3#4 => some (.seImm (opX op) (opNN op))
  | 0x4#4 => some (.sneImm (opX op) (opNN op))
  | 0x5#4 => decodeXY0 op .seReg
  | 0x6#4 => some (.ldImm (opX op) (opNN op))
  | 0x7#4 => some (.addImm (opX op) (opNN op))
  | 0x8#4 => decodeAlu op
  | 0x9#4 => decodeXY0 op .sneReg
  | 0xA#4 => some (.ldI (opNNN op))
  | 0xB#4 => some (.jpV0 (opNNN op))
  | 0xC#4 => some (.rnd (opX op) (opNN op))
  | 0xD#4 => some (.drw (opX op) (opY op) (opN op).toFin)
  | 0xE#4 => decodeKeySkip op
  | 0xF#4 => decodeMisc op
  | _ => none

/-- Why bytes are not an instruction: `unknownOpcode` names the undefined encoding (R96), `truncated` says that
fewer than two bytes were given (R90). -/
inductive DecodeReject where
  | unknownOpcode (op : Word)
  | truncated
  deriving DecidableEq, Repr

/-- The opcode of two bytes, the first in `op[15:8]` (R63, R90). -/
def composeOpcode (hi lo : Byte) : Word := hi ++ lo

/-- Decode the instruction at the head of a byte sequence: total, rejecting by name. -/
def decodeBytes : List Byte → Except DecodeReject (Instr × List Byte)
  | hi :: lo :: rest =>
    match decode (composeOpcode hi lo) with
    | some i => .ok (i, rest)
    | none => .error (.unknownOpcode (composeOpcode hi lo))
  | _ => .error .truncated

/-! ## The encoder -/

/-- Format NNN (R91). -/
def encodeNNN (major : BitVec 4) (nnn : Addr12) : Word := major ++ nnn

/-- Format XNN, and format XKK with its low byte (R91). -/
def encodeXNN (major : BitVec 4) (x : Reg) (nn : Byte) : Word := major ++ (BitVec.ofFin x : BitVec 4) ++ nn

/-- Format XYN (R91). -/
def encodeXYN (major : BitVec 4) (x y : Reg) (n : BitVec 4) : Word :=
  major ++ (BitVec.ofFin x : BitVec 4) ++ (BitVec.ofFin y : BitVec 4) ++ n

/-- The opcode of an instruction, from the patterns of R95. -/
def encode : Instr → Word
  | .cls => 0x00E0#16
  | .ret => 0x00EE#16
  | .jp nnn => encodeNNN 0x1#4 nnn
  | .call nnn => encodeNNN 0x2#4 nnn
  | .seImm x nn => encodeXNN 0x3#4 x nn
  | .sneImm x nn => encodeXNN 0x4#4 x nn
  | .seReg x y => encodeXYN 0x5#4 x y 0x0#4
  | .ldImm x nn => encodeXNN 0x6#4 x nn
  | .addImm x nn => encodeXNN 0x7#4 x nn
  | .ldReg x y => encodeXYN 0x8#4 x y 0x0#4
  | .orReg x y => encodeXYN 0x8#4 x y 0x1#4
  | .andReg x y => encodeXYN 0x8#4 x y 0x2#4
  | .xorReg x y => encodeXYN 0x8#4 x y 0x3#4
  | .addReg x y => encodeXYN 0x8#4 x y 0x4#4
  | .subReg x y => encodeXYN 0x8#4 x y 0x5#4
  | .shrReg x y => encodeXYN 0x8#4 x y 0x6#4
  | .subnReg x y => encodeXYN 0x8#4 x y 0x7#4
  | .shlReg x y => encodeXYN 0x8#4 x y 0xE#4
  | .sneReg x y => encodeXYN 0x9#4 x y 0x0#4
  | .ldI nnn => encodeNNN 0xA#4 nnn
  | .jpV0 nnn => encodeNNN 0xB#4 nnn
  | .rnd x nn => encodeXNN 0xC#4 x nn
  | .drw x y n => encodeXYN 0xD#4 x y (BitVec.ofFin n)
  | .skp x => encodeXNN 0xE#4 x 0x9E#8
  | .sknp x => encodeXNN 0xE#4 x 0xA1#8
  | .ldVxDt x => encodeXNN 0xF#4 x 0x07#8
  | .ldVxKey x => encodeXNN 0xF#4 x 0x0A#8
  | .ldDtVx x => encodeXNN 0xF#4 x 0x15#8
  | .ldStVx x => encodeXNN 0xF#4 x 0x18#8
  | .addI x => encodeXNN 0xF#4 x 0x1E#8
  | .ldFont x => encodeXNN 0xF#4 x 0x29#8
  | .ldBcd x => encodeXNN 0xF#4 x 0x33#8
  | .storeRegs x => encodeXNN 0xF#4 x 0x55#8
  | .loadRegs x => encodeXNN 0xF#4 x 0x65#8

/-- The two bytes of an instruction in memory order, the high byte first (R63, R90). -/
def encodeBytes (i : Instr) : List Byte :=
  [(encode i).extractLsb' 8 8, (encode i).extractLsb' 0 8]

/-! ## The opcode table's numbering -/

/-- The bytes of a table word as the hardware stores them: the word's high byte at the lower address (R63). Bits at
`nbits` and above are 0. -/
def tableWordBytes (nbits w : Nat) : List Byte :=
  [BitVec.ofNat 8 (w % 2 ^ nbits / 256), BitVec.ofNat 8 (w % 2 ^ nbits)]

/-- The instruction the decoder reads from a word numbered as spec/opcode_table.json numbers it. -/
def decodeTableWord (nbits w : Nat) : Option Instr :=
  match decodeBytes (tableWordBytes nbits w) with
  | .ok (i, _) => some i
  | .error _ => none

end Sys2Proof
end

