-- ==== Sys2Proof/Config.lean ====
section
/-! DEFINITION. The configuration parameters of spec 00_scope.md R6 and the free random byte of R12. -/

namespace Sys2Proof

/-- `FONT_BASE`: one of 0x000, 0x050 (R6, D1). -/
inductive FontBase where
  | at000
  | at050
  deriving DecidableEq, Repr

/-- `SHIFT_SRC`: which register `8XY6` and `8XYE` shift (R6, D3). -/
inductive ShiftSrc where
  | x
  | y
  deriving DecidableEq, Repr

/-- `UNKNOWN_POLICY`: what a step does with an undefined opcode (R6, R251, R268, D4). -/
inductive UnknownPolicy where
  | halt
  | skip
  deriving DecidableEq, Repr

/-- `DRAW_EDGE`: what `DXYN` does with sprite pixels past the right or bottom edge (R6, R202, D5). -/
inductive DrawEdge where
  | clip
  | wrap
  deriving DecidableEq, Repr

/-- The configuration record (R6, R35): fixed before reset, never changed by any transaction. -/
structure Config where
  fontBase      : FontBase
  fontTable     : Vector Byte 80
  shiftSrc      : ShiftSrc
  unknownPolicy : UnknownPolicy
  drawEdge      : DrawEdge
  deriving DecidableEq, Repr

/-- FREE VALUE (R12, R173, 93 U9; log entry 2): the byte the injected random source gives at its n-th draw. It
has no body, so nothing constrains it: a statement that holds holds whatever the source gives. -/
opaque Config.randomByte : Nat → Byte

end Sys2Proof
end

