-- ==== Sys2Proof/Machine/Font.lean ====
section
/-! DEFINITION. The default font table and the default configuration (spec 20_memory.md R62, 00_scope.md R6). -/

namespace Sys2Proof.Machine

/-- Glyphs 0 to 3 (R62). -/
def fontGlyphs0to3 : Array Byte :=
  #[0xF0, 0x90, 0x90, 0x90, 0xF0,
    0x20, 0x60, 0x20, 0x20, 0x70,
    0xF0, 0x10, 0xF0, 0x80, 0xF0,
    0xF0, 0x10, 0xF0, 0x10, 0xF0]

/-- Glyphs 4 to 7 (R62). -/
def fontGlyphs4to7 : Array Byte :=
  #[0x90, 0x90, 0xF0, 0x10, 0x10,
    0xF0, 0x80, 0xF0, 0x10, 0xF0,
    0xF0, 0x80, 0xF0, 0x90, 0xF0,
    0xF0, 0x10, 0x20, 0x40, 0x40]

/-- Glyphs 8 to B (R62). -/
def fontGlyphs8toB : Array Byte :=
  #[0xF0, 0x90, 0xF0, 0x90, 0xF0,
    0xF0, 0x90, 0xF0, 0x10, 0xF0,
    0xF0, 0x90, 0xF0, 0x90, 0x90,
    0xE0, 0x90, 0xE0, 0x90, 0xE0]

/-- Glyphs C to F (R62). -/
def fontGlyphsCtoF : Array Byte :=
  #[0xF0, 0x80, 0x80, 0x80, 0xF0,
    0xE0, 0x90, 0x90, 0x90, 0xE0,
    0xF0, 0x80, 0xF0, 0x80, 0xF0,
    0xF0, 0x80, 0xF0, 0x80, 0x80]

/-- The default `FONT_TABLE` (R62, D2; log entry 5). -/
def defaultFontTable : Vector Byte 80 :=
  ⟨fontGlyphs0to3 ++ fontGlyphs4to7 ++ fontGlyphs8toB ++ fontGlyphsCtoF, rfl⟩

/-- The default configuration (R6, D1 to D5; log entry 1). -/
def defaultConfig : Config :=
  { fontBase := .at000, fontTable := defaultFontTable, shiftSrc := .x, unknownPolicy := .halt, drawEdge := .clip }

/-- The address a `FONT_BASE` names (R6). -/
def fontBaseAddress : FontBase → Nat
  | .at000 => 0x000
  | .at050 => 0x050

end Sys2Proof.Machine
end

