-- ==== Sys2Proof/Machine/Memory.lean ====
section
/-! DEFINITION. Main memory: 4096 bytes (spec 10_state.md R29, 20_memory.md R60 to R69), held as the list of the
cells that differ from the reset contents, addresses strictly rising. -/

namespace Sys2Proof.Machine

/-- The number of bytes of memory, `MEM_SIZE` (R5). -/
def memSize : Nat := 4096

/-- Memory as plain data: the cells that differ from what an unlisted address reads as, in rising order. -/
abbrev Memory := List Host.Cell

/-- What an unlisted address reads as: the reset contents, `FONT_TABLE` at `FONT_BASE` and zero elsewhere (R36, R62,
R290; log entry 6). -/
def unlistedByte (cfg : Config) (a : Nat) : Byte :=
  if h : fontBaseAddress cfg.fontBase ≤ a ∧ a < fontBaseAddress cfg.fontBase + 80 then
    cfg.fontTable[a - fontBaseAddress cfg.fontBase]'(by omega)
  else 0

/-- The listed byte at an address, if any. -/
def Memory.lookup : Memory → Nat → Option Byte
  | [], _ => none
  | (k, b) :: m, a => if a = k then some b else Memory.lookup m a

/-- The byte at an address. -/
def Memory.read (cfg : Config) (m : Memory) (a : Nat) : Byte := (Memory.lookup m a).getD (unlistedByte cfg a)

/-- List a cell unless it holds what the address reads as unlisted. -/
def Memory.cell (cfg : Config) (a : Nat) (b : Byte) : Memory := if b = unlistedByte cfg a then [] else [(a, b)]

/-- Store a byte, keeping the canonical form. -/
def Memory.write (cfg : Config) : Memory → Nat → Byte → Memory
  | [], a, b => Memory.cell cfg a b
  | (k, v) :: m, a, b =>
    if a < k then Memory.cell cfg a b ++ (k, v) :: m
    else if a = k then Memory.cell cfg a b ++ m
    else (k, v) :: Memory.write cfg m a b

/-- The canonical form from address `lo` up: addresses strictly rising, inside memory, no cell equal to what its
address reads as unlisted. -/
def Memory.wfFrom (cfg : Config) : Nat → Memory → Bool
  | _, [] => true
  | lo, (k, b) :: m => decide (lo ≤ k) && decide (k < memSize) && (b != unlistedByte cfg k) && Memory.wfFrom cfg (k + 1) m

/-- The canonical form of memory. -/
def Memory.wf (cfg : Config) (m : Memory) : Bool := Memory.wfFrom cfg 0 m

end Sys2Proof.Machine
end

