-- ==== Sys2Proof/Machine/State.lean ====
section
/-! DEFINITION. The architectural state (spec 10_state.md R20 to R37), the error kinds of a step (60_exceptions.md
R250) and the state after reset (R36, R290). -/

namespace Sys2Proof.Machine

/-- The display buffer: 32 rows of 64 pixels (R30). Pixel `k = y*64 + x` is row `k / 64`, column `k mod 64` (log
entry 9). -/
abbrev Display := Vector (Vector Bool 64) 32

/-- Everything the spec gives the machine (R37), and two fields of the model's own: `cfg` (log entry 1) and `draws`
(log entry 2). -/
structure State where
  /-- The configuration parameters (00_scope.md R6). Not machine state (R35): no transaction writes it. -/
  cfg   : Config
  /-- The general registers `V[0]` to `V[15]` (R20); `V[15]` is VF (R21). -/
  v     : Vector Byte 16
  /-- The index register `I` (R22). -/
  i     : Word
  /-- The program counter (R23). -/
  pc    : Word
  /-- The stack pointer `SP`, 0 to 16: the number of return addresses held (R26). -/
  sp    : Fin 17
  /-- `STACK[0]` to `STACK[15]` (R26). -/
  stack : Vector Word 16
  /-- The delay timer `DT` (R27). -/
  dt    : Byte
  /-- The sound timer `ST` (R28). -/
  st    : Byte
  /-- Main memory `MEM` (R29). -/
  mem   : Memory
  /-- The display buffer `DISP` (R30). -/
  disp  : Display
  /-- The redraw flag `DRAW` (R31). -/
  draw  : Bool
  /-- The key states `KEYS[0]` to `KEYS[15]` (R32). -/
  keys  : Vector Bool 16
  /-- The model's own: how many random bytes have been drawn (log entry 2). -/
  draws : Nat
  deriving DecidableEq, Repr

/-- The errors a step can raise (R250). Raising one ends the step with the state unchanged (R124, R258). -/
inductive Fault where
  /-- Raised by decode of an undefined encoding under `UNKNOWN_POLICY = halt`; the info is the opcode (R251). Safe:
  the hardware stops the step the same way. -/
  | unknownOpcode (op : Word)
  /-- Raised by `2NNN` when `SP = 16` (R252). Safe: the spec names the error. -/
  | stackOverflow
  /-- Raised by `00EE` when `SP = 0` (R253). Safe: the spec names the error. -/
  | stackUnderflow
  /-- Raised by fetch, `DXYN`, `FX33`, `FX55`, `FX65`; the info is the first offending address (R254). Safe: the spec
  names the error. -/
  | addressOutOfRange (addr : Nat)
  deriving DecidableEq, Repr

/-- No meaning for the instruction. No instruction of this model is refused. -/
inductive Refusal where
  /-- Raised by an arm of `exec` whose instruction has no meaning yet; no arm raises it. Safe. -/
  | notModelled (mnemonic : String)
  deriving DecidableEq, Repr

/-- The value of every state element after the `reset` transaction, for a configuration (R36, R290). -/
def State.resetWith (cfg : Config) : State :=
  { cfg   := cfg
    v     := Vector.replicate 16 0
    i     := 0
    pc    := 0x200
    sp    := 0
    stack := Vector.replicate 16 0
    dt    := 0
    st    := 0
    mem   := []
    disp  := Vector.replicate 32 (Vector.replicate 64 false)
    draw  := true
    keys  := Vector.replicate 16 false
    draws := 0 }

/-- The machine right after reset, under the default configuration (R6, R36). -/
def State.reset : State := State.resetWith defaultConfig

end Sys2Proof.Machine
end

