-- ==== Sys2Proof/Machine/Ops.lean ====
section
/-! DEFINITION. The named operations over registers, memory, the call stack, the display and the keys, raising an
error, and the fetch (spec 10_state.md, 20_memory.md, 40_step_cycle_and_ports.md R122, 60_exceptions.md). -/

namespace Sys2Proof.Machine

/-- What one instruction answers. -/
abbrev Result := Host.Outcome State Fault Refusal

/-! ## Errors -/

/-- Raising an error, the machine's only way of taking an exception: the step ends, the error and its info go to the
host, and the state is the one before the step (R124, R258). There is no handler, no saved pc, no mode, and no return
from an error (R259). -/
def raise (f : Fault) : Result := .fault f

/-- The error codes of R250 (D29). -/
def Fault.code : Fault → Nat
  | .unknownOpcode _ => 1
  | .stackOverflow => 2
  | .stackUnderflow => 3
  | .addressOutOfRange _ => 4

/-- The `info` recorded with an error (R250). -/
def Fault.info : Fault → Option Nat
  | .unknownOpcode op => some op.toNat
  | .stackOverflow => none
  | .stackUnderflow => none
  | .addressOutOfRange addr => some addr

/-! ## Registers -/

/-- `V[x]` (R9, R20). -/
def State.getV (s : State) (x : Reg) : Byte := s.v[x]

/-- `V[x] <- b` (R9, R20). -/
def State.setV (s : State) (x : Reg) (b : Byte) : State := { s with v := s.v.set x b }

/-- `I <- w` (R22). -/
def State.setI (s : State) (w : Word) : State := { s with i := w }

/-- `pc <- w` (R23). -/
def State.setPc (s : State) (w : Word) : State := { s with pc := w }

/-- `pc <- pc + 2` (R24). -/
def State.advance (s : State) : State := s.setPc (s.pc + 2)

/-- A skip: `pc + 4` when the condition holds, `pc + 2` when it does not (R24). -/
def State.skipIf (s : State) (c : Bool) : State := if c then s.setPc (s.pc + 4) else s.advance

/-- `DT <- b` (R27). -/
def State.setDT (s : State) (b : Byte) : State := { s with dt := b }

/-- `ST <- b` (R28). -/
def State.setST (s : State) (b : Byte) : State := { s with st := b }

/-- The random source moves on to its next byte (log entry 2). -/
def State.nextDraw (s : State) : State := { s with draws := s.draws + 1 }

/-! ## The call stack (R26) -/

/-- Push: `STACK[SP] <- w`, then `SP <- SP + 1`; `none` when `SP = 16`. -/
def State.push (s : State) (w : Word) : Option State :=
  if h : s.sp.val < 16 then
    some { s with stack := s.stack.set s.sp.val w, sp := ⟨s.sp.val + 1, by omega⟩ }
  else none

/-- Pop: `SP <- SP - 1`, then read `STACK[SP]`, which keeps its value; `none` when `SP = 0`. -/
def State.pop (s : State) : Option (Word × State) :=
  if h : 0 < s.sp.val then
    some (s.stack[s.sp.val - 1], { s with sp := ⟨s.sp.val - 1, by omega⟩ })
  else none

/-! ## Memory (R66, R67) -/

/-- `MEM[a]`. -/
def State.peek (s : State) (a : Nat) : Byte := Memory.read s.cfg s.mem a

/-- `MEM[a] <- b`. -/
def State.poke (s : State) (a : Nat) (b : Byte) : State := { s with mem := Memory.write s.cfg s.mem a b }

/-- Bytes into consecutive addresses, the first at `a`, in ascending order (R64). -/
def State.pokeList (s : State) : Nat → List Byte → State
  | _, [] => s
  | a, b :: bs => State.pokeList (s.poke a b) (a + 1) bs

/-- The bytes of `n` consecutive addresses from `a`, in ascending order (R64). -/
def State.peekList (s : State) (a n : Nat) : List Byte := (List.range n).map fun k => s.peek (a + k)

/-- The first of the addresses `base` to `base + n - 1` above 0xFFF, if any (R66, R67): addresses are natural numbers,
never clamped and never wrapped. -/
def firstOutOfRange (base n : Nat) : Option Nat := ((List.range n).map (base + ·)).find? fun a => decide (0xFFF < a)

/-- Every address check of an instruction before its first write (R67): `AddressOutOfRange` with the first offending
address, else go on. -/
def checked (base n : Nat) (k : Result) : Result :=
  match firstOutOfRange base n with
  | some a => raise (.addressOutOfRange a)
  | none => k

/-! ## The display (R30, R75) -/

/-- `DISP[k]`. -/
def Display.pixel (d : Display) (k : PixelIndex) : Bool :=
  (d[k.val / 64]'(by omega))[k.val % 64]'(Nat.mod_lt _ (by decide))

/-- `DISP[k] <- b`. -/
def Display.setPixel (d : Display) (k : PixelIndex) (b : Bool) : Display :=
  d.set (k.val / 64) ((d[k.val / 64]'(by omega)).set (k.val % 64) b (Nat.mod_lt _ (by decide))) (by omega)

/-- The blank display. -/
def Display.blank : Display := Vector.replicate 32 (Vector.replicate 64 false)

/-- Write the display and set the redraw flag (R31: "set whenever any pixel is written"). -/
def State.setDisplay (s : State) (d : Display) : State := { s with disp := d, draw := true }

/-! ## The keys (R32) -/

/-- `KEYS[k]`. -/
def State.keyPressed (s : State) (k : Key) : Bool := s.keys[k]

/-- The smallest `k` with `KEYS[k] == 1`, if any key is pressed (R221). -/
def State.lowestKey (s : State) : Option Key := (List.finRange 16).find? fun k => s.keyPressed k

/-! ## Fetch and unknown opcodes (R122) -/

/-- Fetch: `MemRead(pc, 2)`, the byte at `pc` in bits 15:8 (R63, R66). -/
def State.fetch (s : State) : Except Fault Word :=
  match firstOutOfRange s.pc.toNat 2 with
  | some a => .error (.addressOutOfRange a)
  | none => .ok (composeOpcode (s.peek s.pc.toNat) (s.peek (s.pc.toNat + 1)))

/-- An undefined encoding: an error under `halt` (R251), passed over under `skip` (R268). -/
def unknownOpcode (op : Word) (s : State) : Result :=
  match s.cfg.unknownPolicy with
  | .halt => raise (.unknownOpcode op)
  | .skip => .next s.advance

/-- One step around the meaning `run` of an instruction: fetch, decode, execute (R122). -/
def cycle (run : Instr → State → Result) (s : State) : Result :=
  match s.fetch with
  | .error f => raise f
  | .ok op =>
    match decode op with
    | some i => run i s
    | none => unknownOpcode op s

/-- Place the bytes of a table word at the program counter, where the next step fetches; where the program counter
lies outside memory no byte can be placed (R66). -/
def placeTableWord (s : State) (nbits w : Nat) : State :=
  if s.pc.toNat + 1 < memSize then s.pokeList s.pc.toNat (tableWordBytes nbits w) else s

end Sys2Proof.Machine
end

