-- ==== Sys2Proof/Machine/Operands.lean ====
section
/-! DEFINITION. How operands are formed (spec 30_encoding.md R93): register, key, glyph, shift, address, sprite and
decimal operands. -/

namespace Sys2Proof.Machine

/-- A 12-bit address zero-extended to 16 bits (R93). -/
def addressOperand (nnn : Addr12) : Word := nnn.setWidth 16

/-- A register zero-extended to 16 bits (R153, R230). -/
def wordOperand (b : Byte) : Word := b.setWidth 16

/-- The target of `BNNN`: `zext_16(NNN) + zext_16(V[0])`, kept whole (R153, D18). -/
def State.indexedTarget (s : State) (nnn : Addr12) : Word := addressOperand nnn + wordOperand (s.getV 0)

/-- The low nibble of a register: the key of `EX9E` and `EXA1`, the glyph of `FX29` (R164, R231). -/
def lowNibble (b : Byte) : Fin 16 := (b.extractLsb' 0 4).toFin

/-- The address of the glyph of a register's low nibble: `FONT_BASE + 5 * d` (R231). -/
def glyphAddress (cfg : Config) (b : Byte) : Word :=
  BitVec.ofNat 16 (fontBaseAddress cfg.fontBase + 5 * (lowNibble b).val)

/-- The operand of a shift: `V[X]` or `V[Y]` by `SHIFT_SRC` (R187, R189). -/
def State.shiftOperand (s : State) (x y : Reg) : Byte :=
  match s.cfg.shiftSrc with
  | .x => s.getV x
  | .y => s.getV y

/-- The base of every data access, `I` as a natural number: the effective address is `I + k` (R67). -/
def State.dataBase (s : State) : Nat := s.i.toNat

/-- Hundreds, tens and units of a register (R232). -/
def bcdDigits (b : Byte) : List Byte :=
  [BitVec.ofNat 8 (b.toNat / 100), BitVec.ofNat 8 (b.toNat / 10 % 10), BitVec.ofNat 8 (b.toNat % 10)]

/-- How many registers `FX55` and `FX65` move: 0 to X inclusive (R233, R234). -/
def regCount (x : Reg) : Nat := x.val + 1

/-- `V[0]` to `V[X]` in order (R233). -/
def State.lowRegs (s : State) (x : Reg) : List Byte := ((List.finRange 16).take (regCount x)).map s.getV

/-- `V[k] <- MEM[base + k]` for k = 0 to X; registers above X keep their values (R234). -/
def State.loadLowRegs (s : State) (base : Nat) (x : Reg) : State :=
  { s with v := Vector.ofFn fun k : Reg => if k.val ≤ x.val then s.peek (base + k.val) else s.getV k }

/-! ## Sprites (R202, R203) -/

/-- The column of a sprite's origin, `V[X] mod 64` (R202). -/
def originX (b : Byte) : Nat := b.toNat % 64

/-- The row of a sprite's origin, `V[Y] mod 32` (R202). -/
def originY (b : Byte) : Nat := b.toNat % 32

/-- The pixel a sprite bit at column `x`, row `y` targets, or none where it falls off the screen under `clip` (R202).
The index is formed only from a column 0 to 63 and a row 0 to 31 (R75). -/
def targetPixel (edge : DrawEdge) (x y : Nat) : Option PixelIndex :=
  let x' := match edge with
    | .clip => x
    | .wrap => x % 64
  let y' := match edge with
    | .clip => y
    | .wrap => y % 32
  if h : x' ≤ 63 ∧ y' ≤ 31 then some ⟨y' * 64 + x', by omega⟩ else none

/-- The pixels one row byte of a sprite flips, left to right: column `c` is bit `7 - c` (R203). -/
def rowTargets (edge : DrawEdge) (x0 y : Nat) (b : Byte) : List PixelIndex :=
  (List.range 8).filterMap fun c => if b.getLsbD (7 - c) then targetPixel edge (x0 + c) y else none

/-- The pixels a sprite flips, row by row, the first byte the top row (R203). -/
def spriteTargets (edge : DrawEdge) (x0 : Nat) : Nat → List Byte → List PixelIndex
  | _, [] => []
  | y, b :: bs => rowTargets edge x0 y b ++ spriteTargets edge x0 (y + 1) bs

end Sys2Proof.Machine
end

