-- ==== Sys2Proof/Machine/Flags.lean ====
section
/-! DEFINITION. The flag computations and the writing of VF (spec 10_state.md R21, R38; 44_alu.md R180, R190). -/

namespace Sys2Proof.Machine

/-- A flag as the byte 0x00 or 0x01 (R21). -/
def flagByte (b : Bool) : Byte := if b then 0x01 else 0x00

/-- The carry of `a + b`: 1 exactly when the sum is above 255 (R185, R190). -/
def carryOf (a b : Byte) : Bool := decide (255 < a.toNat + b.toNat)

/-- The borrow of `a - b`: 1 exactly when `b > a` (R186, R190). -/
def borrowOf (a b : Byte) : Bool := decide (a.toNat < b.toNat)

/-- The bit shifted out of a right shift by one: bit 0 (R187). -/
def shiftedOutRight (b : Byte) : Bool := b.getLsbD 0

/-- The bit shifted out of a left shift by one: bit 7 (R189). -/
def shiftedOutLeft (b : Byte) : Bool := b.getLsbD 7

/-- VF, register 15 (R21). -/
def flagReg : Reg := 15

/-- `V[15] <- flag` (R21). -/
def State.setFlag (s : State) (b : Bool) : State := s.setV flagReg (flagByte b)

/-- The result first, then the flag, so that with X = 15 VF ends as the flag (R180, D9). -/
def State.setResultAndFlag (s : State) (x : Reg) (r : Byte) (flag : Bool) : State := (s.setV x r).setFlag flag

/-- Flip one pixel, recording a collision when it was set (R201). -/
def flipPixel (acc : Display × Bool) (k : PixelIndex) : Display × Bool :=
  (acc.1.setPixel k (!acc.1.pixel k), acc.2 || acc.1.pixel k)

/-- XOR a list of pixels into the display, with the collision bit: 1 if at least one pixel went from 1 to 0 (R201). -/
def drawPixels (d : Display) (ks : List PixelIndex) : Display × Bool := ks.foldl flipPixel (d, false)

end Sys2Proof.Machine
end

