-- ==== Sys2Proof/Machine/Alu.lean ====
section
/-! DEFINITION. The register-register ALU family (spec 44_alu.md): `8XY0` to `8XY7` and `8XYE`. Both operands are read
before anything is written, and the flag is written after the result (R180). -/

namespace Sys2Proof.Machine

/-- `8XY0` LD Vx, Vy (R181). -/
def execLdReg (x y : Reg) (s : State) : Result := .next (s.setV x (s.getV y)).advance

/-- `8XY1` OR Vx, Vy (R182). -/
def execOr (x y : Reg) (s : State) : Result := .next (s.setV x (s.getV x ||| s.getV y)).advance

/-- `8XY2` AND Vx, Vy (R183). -/
def execAnd (x y : Reg) (s : State) : Result := .next (s.setV x (s.getV x &&& s.getV y)).advance

/-- `8XY3` XOR Vx, Vy (R184). -/
def execXor (x y : Reg) (s : State) : Result := .next (s.setV x (s.getV x ^^^ s.getV y)).advance

/-- `8XY4` ADD Vx, Vy (R185): VF = carry. -/
def execAdd (x y : Reg) (s : State) : Result :=
  .next (s.setResultAndFlag x (s.getV x + s.getV y) (carryOf (s.getV x) (s.getV y))).advance

/-- `8XY5` SUB Vx, Vy (R186): VF = borrow of `V[X] - V[Y]`. -/
def execSub (x y : Reg) (s : State) : Result :=
  .next (s.setResultAndFlag x (s.getV x - s.getV y) (borrowOf (s.getV x) (s.getV y))).advance

/-- `8XY6` SHR Vx, Vy (R187): VF = bit 0 of the operand. -/
def execShr (x y : Reg) (s : State) : Result :=
  .next (s.setResultAndFlag x (s.shiftOperand x y >>> 1) (shiftedOutRight (s.shiftOperand x y))).advance

/-- `8XY7` SUBN Vx, Vy (R188): VF = borrow of `V[Y] - V[X]`. -/
def execSubn (x y : Reg) (s : State) : Result :=
  .next (s.setResultAndFlag x (s.getV y - s.getV x) (borrowOf (s.getV y) (s.getV x))).advance

/-- `8XYE` SHL Vx, Vy (R189): VF = bit 7 of the operand. -/
def execShl (x y : Reg) (s : State) : Result :=
  .next (s.setResultAndFlag x (s.shiftOperand x y <<< 1) (shiftedOutLeft (s.shiftOperand x y))).advance

end Sys2Proof.Machine
end

