-- ==== Sys2Proof/Machine/Control.lean ====
section
/-! DEFINITION. Control transfer (spec 41_control_transfer.md): `00EE`, `1NNN`, `2NNN`, `BNNN`. -/

namespace Sys2Proof.Machine

/-- `00EE` RET (R150). -/
def execRet (s : State) : Result :=
  match s.pop with
  | some (w, t) => .next (t.setPc w)
  | none => raise .stackUnderflow

/-- `1NNN` JP NNN (R151). -/
def execJp (nnn : Addr12) (s : State) : Result := .next (s.setPc (addressOperand nnn))

/-- `2NNN` CALL NNN (R152): pushes the address of the instruction after the call. -/
def execCall (nnn : Addr12) (s : State) : Result :=
  match s.push (s.pc + 2) with
  | some t => .next (t.setPc (addressOperand nnn))
  | none => raise .stackOverflow

/-- `BNNN` JP V0, NNN (R153). -/
def execJpV0 (nnn : Addr12) (s : State) : Result := .next (s.setPc (s.indexedTarget nnn))

end Sys2Proof.Machine
end

