-- ==== Sys2Proof/Machine/Immediate.lean ====
section
/-! DEFINITION. Immediates and random (spec 43_immediate_and_random.md): `6XNN`, `7XNN`, `ANNN`, `CXNN`. -/

namespace Sys2Proof.Machine

/-- `6XNN` LD Vx, NN (R170). -/
def execLdImm (x : Reg) (nn : Byte) (s : State) : Result := .next (s.setV x nn).advance

/-- `7XNN` ADD Vx, NN (R171): modulo 256, no flag. -/
def execAddImm (x : Reg) (nn : Byte) (s : State) : Result := .next (s.setV x (s.getV x + nn)).advance

/-- `ANNN` LD I, NNN (R172). -/
def execLdI (nnn : Addr12) (s : State) : Result := .next (s.setI (addressOperand nnn)).advance

/-- `CXNN` RND Vx, NN (R173) with the step's input byte `rnd` given. -/
def execRndWith (rnd : Byte) (x : Reg) (nn : Byte) (s : State) : Result :=
  .next ((s.setV x (rnd &&& nn)).nextDraw).advance

/-- `CXNN` RND Vx, NN (R173): the byte is the free value of this draw (R12; log entry 2). -/
def execRnd (x : Reg) (nn : Byte) (s : State) : Result := execRndWith (Config.randomByte s.draws) x nn s

end Sys2Proof.Machine
end

