-- ==== Sys2Proof/Machine/Index.lean ====
section
/-! DEFINITION. The index register and memory instructions (spec 47_index_and_memory.md): `FX1E`, `FX29`, `FX33`,
`FX55`, `FX65`. -/

namespace Sys2Proof.Machine

/-- `FX1E` ADD I, Vx (R230): modulo 65536, VF untouched. -/
def execAddI (x : Reg) (s : State) : Result := .next (s.setI (s.i + wordOperand (s.getV x))).advance

/-- `FX29` LD F, Vx (R231). -/
def execLdFont (x : Reg) (s : State) : Result := .next (s.setI (glyphAddress s.cfg (s.getV x))).advance

/-- `FX33` LD B, Vx (R232): three digits at I, I + 1, I + 2; I unchanged. -/
def execLdBcd (x : Reg) (s : State) : Result :=
  checked s.dataBase 3 (.next (s.pokeList s.dataBase (bcdDigits (s.getV x))).advance)

/-- `FX55` LD [I], Vx (R233): `V[0]` to `V[X]` at I upward; I ends at I + X + 1. -/
def execStoreRegs (x : Reg) (s : State) : Result :=
  checked s.dataBase (regCount x)
    (.next ((s.pokeList s.dataBase (s.lowRegs x)).setI (s.i + BitVec.ofNat 16 (regCount x))).advance)

/-- `FX65` LD Vx, [I] (R234): `V[0]` to `V[X]` from I upward; I ends at I + X + 1. -/
def execLoadRegs (x : Reg) (s : State) : Result :=
  checked s.dataBase (regCount x)
    (.next ((s.loadLowRegs s.dataBase x).setI (s.i + BitVec.ofNat 16 (regCount x))).advance)

end Sys2Proof.Machine
end

