-- ==== Sys2Proof/Machine/Screen.lean ====
section
/-! DEFINITION. The display instructions (spec 45_display.md): `00E0`, `DXYN`. -/

namespace Sys2Proof.Machine

/-- `00E0` CLS (R200): every pixel 0, `DRAW` set. -/
def execCls (s : State) : Result := .next (s.setDisplay Display.blank).advance

/-- The pixels a `DXYN` flips: the sprite of N bytes at `I`, its top-left pixel at (`V[X] mod 64`, `V[Y] mod 32`)
(R201 to R203). -/
def State.drwTargets (s : State) (x y : Reg) (n : Fin 16) : List PixelIndex :=
  spriteTargets s.cfg.drawEdge (originX (s.getV x)) (originY (s.getV y)) (s.peekList s.dataBase n.val)

/-- The display and collision bit after a `DXYN` (R201). -/
def State.drwResult (s : State) (x y : Reg) (n : Fin 16) : Display × Bool :=
  drawPixels s.disp (s.drwTargets x y n)

/-- `DXYN` DRW Vx, Vy, N (R201): all N row addresses are checked first; then the pixels, VF, `DRAW`, pc. -/
def execDrw (x y : Reg) (n : Fin 16) (s : State) : Result :=
  checked s.dataBase n.val
    (.next (((s.setDisplay (s.drwResult x y n).1).setFlag (s.drwResult x y n).2).advance))

end Sys2Proof.Machine
end

