-- ==== Sys2Proof/Machine/Skips.lean ====
section
/-! DEFINITION. The conditional skips (spec 42_skips.md): `3XNN`, `4XNN`, `5XY0`, `9XY0`, `EX9E`, `EXA1`. -/

namespace Sys2Proof.Machine

/-- `3XNN` SE Vx, NN (R160). -/
def execSeImm (x : Reg) (nn : Byte) (s : State) : Result := .next (s.skipIf (s.getV x == nn))

/-- `4XNN` SNE Vx, NN (R161). -/
def execSneImm (x : Reg) (nn : Byte) (s : State) : Result := .next (s.skipIf (s.getV x != nn))

/-- `5XY0` SE Vx, Vy (R162). -/
def execSeReg (x y : Reg) (s : State) : Result := .next (s.skipIf (s.getV x == s.getV y))

/-- `9XY0` SNE Vx, Vy (R163). -/
def execSneReg (x y : Reg) (s : State) : Result := .next (s.skipIf (s.getV x != s.getV y))

/-- `EX9E` SKP Vx (R164): the low nibble of `V[X]` selects the key (D15). -/
def execSkp (x : Reg) (s : State) : Result := .next (s.skipIf (s.keyPressed (lowNibble (s.getV x))))

/-- `EXA1` SKNP Vx (R165). -/
def execSknp (x : Reg) (s : State) : Result := .next (s.skipIf (!s.keyPressed (lowNibble (s.getV x))))

end Sys2Proof.Machine
end

