-- ==== Sys2Proof/Machine/TimersKeys.lean ====
section
/-! DEFINITION. The timer and key-wait instructions (spec 46_timers_and_keys.md): `FX07`, `FX0A`, `FX15`, `FX18`. -/

namespace Sys2Proof.Machine

/-- `FX07` LD Vx, DT (R220). -/
def execLdVxDt (x : Reg) (s : State) : Result := .next (s.setV x s.dt).advance

/-- `FX0A` LD Vx, K (R221): with no key pressed nothing changes and pc stays; else the lowest pressed key. -/
def execLdVxKey (x : Reg) (s : State) : Result :=
  match s.lowestKey with
  | none => .next s
  | some k => .next (s.setV x (BitVec.ofNat 8 k.val)).advance

/-- `FX15` LD DT, Vx (R222). -/
def execLdDtVx (x : Reg) (s : State) : Result := .next (s.setDT (s.getV x)).advance

/-- `FX18` LD ST, Vx (R223). -/
def execLdStVx (x : Reg) (s : State) : Result := .next (s.setST (s.getV x)).advance

end Sys2Proof.Machine
end

