-- ==== Sys2Proof/Machine/Step.lean ====
section
/-! DEFINITION. One step (spec 40_step_cycle_and_ports.md R122), and placing a word where the next step fetches. -/

namespace Sys2Proof.Machine

/-- The `step` transaction with its random byte taken from the free value (R12, R122; log entries 2 and 3). -/
def step (s : State) : Host.Outcome State Fault Refusal := cycle exec s

/-- `s` with the table word stored at the program counter, its first byte the high one (R63; log entry 4). -/
def State.withFetchWord (s : State) (nbits w : Nat) : State := placeTableWord s nbits w

end Sys2Proof.Machine
end

