-- ==== Sys2Proof/Machine/Ports.lean ====
section
/-! DEFINITION. The core's seven transaction-level ports (spec 40_step_cycle_and_ports.md R121): what each does to the
state and answers to the host. -/

namespace Sys2Proof.Machine

/-- The outcome of a successful step (R123). -/
structure StepOutcome where
  displayChanged : Bool
  toneActive : Bool
  report : Option (Word × Word)
  deriving DecidableEq, Repr

/-- The one error of `loadProgram`, with the length offered (R250, R255). -/
inductive LoadError where
  | programTooLarge (length : Nat)
  deriving DecidableEq, Repr

/-- A transaction of the host on one of the ports (R121). `rnd` is the input byte of the step (R12). -/
inductive Transaction where
  | reset
  | loadProgram (bytes : List Byte)
  | tickTimers
  | step (rnd : Byte)
  | setKey (index : Key) (pressed : Bool)
  | getDisplay
  | clearRedraw
  deriving DecidableEq, Repr

/-- The result of a transaction (R121). -/
inductive Response where
  /-- `reset`, `setKey`, `clearRedraw`: no result. -/
  | done
  /-- `loadProgram`: `Ok`. -/
  | loaded
  /-- `loadProgram`: `Err`. -/
  | loadFailed (e : LoadError)
  /-- `tickTimers`: the `tone_stop` bit (R262). -/
  | ticked (toneStop : Bool)
  /-- `step`: `Ok(StepOutcome)`. -/
  | stepped (o : StepOutcome)
  /-- `step`: `Err(ExecError, info)`. -/
  | stepFailed (f : Fault)
  /-- `step`: an instruction without a meaning; never given by this model. -/
  | stepRefused (r : Refusal)
  /-- `getDisplay`: the pixels and `DRAW` (R128). -/
  | view (d : Display) (draw : Bool)
  deriving DecidableEq, Repr

/-- `LoadError` as the code of R250 (D29). -/
def LoadError.code : LoadError → Nat
  | .programTooLarge _ => 5

/-! ## reset, loadProgram, tickTimers, setKey, clearRedraw -/

/-- The `reset` transaction (R290): every state element to its reset value. The configuration is not touched, and the
random source outside the core goes on where it was (log entry 2). -/
def portReset (s : State) : State := { State.resetWith s.cfg with draws := s.draws }

/-- The longest program, `PROG_MAX` = 4096 - 0x200 (R5). -/
def progMax : Nat := 3584

/-- The `loadProgram` transaction (R292). -/
def portLoad (bytes : List Byte) (s : State) : Except LoadError State :=
  if progMax < bytes.length then .error (.programTooLarge bytes.length) else .ok (s.pokeList 0x200 bytes)

/-- One timer counts down, never below zero (R261). -/
def tickByte (b : Byte) : Byte := if b = 0 then 0 else b - 1

/-- The `tickTimers` transaction (R261): both timers, and the `tone_stop` pulse of the tick from 1 to 0 (R262). -/
def portTick (s : State) : State × Bool := ({ s with dt := tickByte s.dt, st := tickByte s.st }, s.st == 1)

/-- The `setKey` transaction (R126). -/
def portSetKey (k : Key) (pressed : Bool) (s : State) : State := { s with keys := s.keys.set k pressed }

/-- The `clearRedraw` transaction (R127). -/
def portClearRedraw (s : State) : State := { s with draw := false }

/-- The tone level: the sound timer is not zero (R123, R262). -/
def toneActive (s : State) : Bool := s.st != 0

/-! ## step -/

/-- `exec` with the step's input byte given: only `CXNN` reads it (R12). -/
def execWith (rnd : Byte) (i : Instr) (s : State) : Result :=
  match i with
  | .rnd x nn => execRndWith rnd x nn s
  | i => exec i s

/-- The `step` transaction's effect for the input byte `rnd` (R122). -/
def stepWith (rnd : Byte) (s : State) : Result := cycle (execWith rnd) s

/-- Is the instruction one of the two display instructions (R123)? -/
def displayInstr : Instr → Bool
  | .cls => true
  | .drw _ _ _ => true
  | .ret | .jp _ | .call _ | .seImm _ _ | .sneImm _ _ | .seReg _ _ | .ldImm _ _ | .addImm _ _ | .ldReg _ _
  | .orReg _ _ | .andReg _ _ | .xorReg _ _ | .addReg _ _ | .subReg _ _ | .shrReg _ _ | .subnReg _ _ | .shlReg _ _
  | .sneReg _ _ | .ldI _ | .jpV0 _ | .rnd _ _ | .skp _ | .sknp _ | .ldVxDt _ | .ldVxKey _ | .ldDtVx _ | .ldStVx _
  | .addI _ | .ldFont _ | .ldBcd _ | .storeRegs _ | .loadRegs _ => false

/-- `display_changed`: the instruction this step executes is `00E0` or `DXYN` (R123). -/
def displayChanged (s : State) : Bool :=
  match s.fetch with
  | .error _ => false
  | .ok op =>
    match decode op with
    | some i => displayInstr i
    | none => false

/-- `report`: the skipped unknown opcode and its address (R123, R268). -/
def skipReport (s : State) : Option (Word × Word) :=
  match s.fetch with
  | .error _ => none
  | .ok op =>
    match decode op with
    | some _ => none
    | none => some (op, s.pc)

/-- The outcome of a step from `s` that succeeded with `t` (R123). -/
def stepOutcome (s t : State) : StepOutcome :=
  { displayChanged := displayChanged s, toneActive := toneActive t, report := skipReport s }

/-- The `step` port (R121, R122): on `Err` the state is the one before the step (R124). -/
def portStep (rnd : Byte) (s : State) : Response × State :=
  match stepWith rnd s with
  | .next t => (.stepped (stepOutcome s t), t)
  | .fault f => (.stepFailed f, s)
  | .refused r => (.stepRefused r, s)

/-! ## All ports -/

/-- One transaction: its result and the state after it. Each is atomic (R13, R70). -/
def transact (x : Transaction) (s : State) : Response × State :=
  match x with
  | .reset => (.done, portReset s)
  | .loadProgram bytes =>
    match portLoad bytes s with
    | .ok t => (.loaded, t)
    | .error e => (.loadFailed e, s)
  | .tickTimers => (.ticked (portTick s).2, (portTick s).1)
  | .step rnd => portStep rnd s
  | .setKey k p => (.done, portSetKey k p s)
  | .getDisplay => (.view s.disp s.draw, s)
  | .clearRedraw => (.done, portClearRedraw s)

/-- Transactions in the order the host issues them (R71): the state after the last one. -/
def transactAll : List Transaction → State → State
  | [], s => s
  | x :: xs, s => transactAll xs (transact x s).2

/-- The results of transactions in the order the host issues them (R71). -/
def responses : List Transaction → State → List Response
  | [], _ => []
  | x :: xs, s => (transact x s).1 :: responses xs (transact x s).2

end Sys2Proof.Machine
end

