-- ==== Sys2Proof/Safety.lean ====
section
/-! DEFINITION. The terms claims are stated in: what a step leaves unchanged, the machine's invariant, reachability
under any interleaving of transactions, and agreement of two runs. -/

namespace Sys2Proof.Machine

/-- The state elements a frame speaks of: those of spec 10_state.md R37 other than the general registers, and the
model's two own fields. -/
inductive Part where
  | regs | index | pc | sp | stack | delay | sound | memory | display | redraw | keys | config | draws
  deriving DecidableEq, Repr

/-- The element is the same in both states: registers one by one, memory byte by byte, the display pixel by pixel. -/
def samePart (s t : State) : Part → Prop
  | .regs => ∀ r : Reg, t.getV r = s.getV r
  | .index => t.i = s.i
  | .pc => t.pc = s.pc
  | .sp => t.sp = s.sp
  | .stack => t.stack = s.stack
  | .delay => t.dt = s.dt
  | .sound => t.st = s.st
  | .memory => ∀ a : Nat, t.peek a = s.peek a
  | .display => ∀ k : PixelIndex, t.disp.pixel k = s.disp.pixel k
  | .redraw => t.draw = s.draw
  | .keys => ∀ k : Key, t.keyPressed k = s.keyPressed k
  | .config => t.cfg = s.cfg
  | .draws => t.draws = s.draws

/-- The frame: every element is the same but those listed. -/
def ChangesOnly (ps : List Part) (s t : State) : Prop := ∀ p : Part, p ∉ ps → samePart s t p

/-- Every general register is the same but those listed. -/
def RegsSameBut (rs : List Reg) (s t : State) : Prop := ∀ r : Reg, r ∉ rs → t.getV r = s.getV r

/-- The pixels a sprite covers, as R202 and R203 say it: bit `7 - c` of row byte `r` is set, and its target from the
origin (`x0`, `y0`) is pixel `k`, at column `k mod 64` and row `k / 64`; under `clip` a target past the edge is no
pixel, under `wrap` it comes back modulo 64 and 32. -/
def SpriteCovers (edge : DrawEdge) (rowByte : Nat → Byte) (n x0 y0 : Nat) (k : PixelIndex) : Prop :=
  ∃ r < n, ∃ c < 8, (rowByte r).getLsbD (7 - c) = true ∧
    match edge with
    | .clip => k.val % 64 = x0 + c ∧ k.val / 64 = y0 + r
    | .wrap => k.val % 64 = (x0 + c) % 64 ∧ k.val / 64 = (y0 + r) % 32

/-- What every reachable state satisfies: memory is in its canonical form (20_memory.md R60 to R62), `pc` never exceeds
0x10FE (10_state.md R25) and no stack slot holds more than 0x1000 (R25). -/
structure State.Inv (s : State) : Prop where
  memory : Memory.wf s.cfg s.mem = true
  pc     : s.pc.toNat ≤ 0x10FE
  stack  : ∀ k : Fin 16, s.stack[k].toNat ≤ 0x1000

/-- The states the host can bring the machine to: any configuration, a reset, then any transactions in any order (R120,
R291, R293). -/
def Reachable (s : State) : Prop :=
  ∃ (cfg : Config) (xs : List Transaction), s = transactAll xs (State.resetWith cfg)

/-- A safe run of transactions: no `step` and no `loadProgram` answers an error (60_exceptions.md R250). -/
def Response.ok : Response → Bool
  | .done | .loaded | .ticked _ | .stepped _ | .view _ _ => true
  | .loadFailed _ | .stepFailed _ | .stepRefused _ => false

def SafeRun (xs : List Transaction) (s : State) : Prop := ∀ r ∈ responses xs s, r.ok = true

/-- Two results agree: both go on, to related states, or both stop for the same reason. -/
def Agree (R : State → State → Prop) : Result → Result → Prop
  | .next s, .next t => R s t
  | .fault f, .fault g => f = g
  | .refused f, .refused g => f = g
  | _, _ => False

end Sys2Proof.Machine
end

