-- ==== Sys2Proof/Certificates/Slice0/Obligations.lean ====
section
/-! DEFINITION. The statements for the provers: what the spec's rules say the machine does. Each docstring names the
rule it formalises and, where the rule rests on one of the spec's own decisions (92_eei_decisions.md), that decision. -/

open Sys2Proof Sys2Proof.Machine

/-- Decode of encode is the instruction -/
def Obligations.DecodeOfEncodeIsTheInstruction : Prop :=
  ∀ (i : Instr) (rest : List Byte),
    decode (encode i) = some i ∧ decodeBytes (encodeBytes i ++ rest) = .ok (i, rest)

/-- Encode of decode is the opcode -/
def Obligations.EncodeOfDecodeIsTheOpcode : Prop :=
  ∀ (op : Word) (i : Instr), decode op = some i → encode i = op ∧ i.wellFormed = true

/-- The case tree of R94 and the table of masks of R95 are written independently of each other. The opcodes of nibble 7,
`5XYN`, `9XYN` and `0NNN` follow the spec's own decisions D12, D13, D14. -/
def Obligations.DecoderAgreesWithTheOpcodeMap : Prop :=
  ∀ op : Word,
    (decode op = none ↔ wellFormedWord op = false) ∧
    ∀ i, decode op = some i → ∀ r ∈ opcodeTable, (r.selects op = true ↔ r = i.row)

/-- R95, R96. That `5XYN` with N not 0 (the last word) is undefined is the spec's own decision D13 (log entry 8). -/
def Obligations.WrittenOutWordsDecode : Prop :=
  decode 0b0110101000101111#16 = some (.ldImm 10 0x2F) ∧
  decode 0b1000000000010100#16 = some (.addReg 0 1) ∧
  decode 0b1101000000010101#16 = some (.drw 0 1 5) ∧
  decode 0b1111001001010101#16 = some (.storeRegs 2) ∧
  decode 0b0000000011101110#16 = some .ret ∧
  decode 0b1110001110011110#16 = some (.skp 3) ∧
  decode 0b0101101010110001#16 = none

/-- R63, R122. That `pc` may be odd is the spec's own decision D20, that it may lie below 0x200 D21 (log entry 8). -/
def Obligations.StepRunsTheInstructionAtPc : Prop :=
  ∀ (s : State) (op : Word), s.pc.toNat ≤ 0xFFE →
    op.extractLsb' 8 8 = s.peek s.pc.toNat → op.extractLsb' 0 8 = s.peek (s.pc.toNat + 1) →
    s.fetch = .ok op ∧ ∀ i, decode op = some i → step s = exec i s

/-- R254. The spec's own decisions (log entry 8): the lowest offending address, all checks first D19; a fetch at 0xFFF
fails at 0x1000 D36; the failed step leaves the whole state R124, D7. -/
def Obligations.AddressOutOfRangeWhenAndWhere : Prop :=
  (∀ s : State,
    (s.pc.toNat = 0xFFF → step s = .fault (.addressOutOfRange 0x1000)) ∧
    (0xFFF < s.pc.toNat → step s = .fault (.addressOutOfRange s.pc.toNat))) ∧
  (∀ (x y : Reg) (n : Fin 16) (s : State),
    (1 ≤ n.val ∧ 0xFFF < s.i.toNat + n.val - 1 →
      exec (.drw x y n) s = .fault (.addressOutOfRange (max s.i.toNat 0x1000))) ∧
    (n.val = 0 ∨ s.i.toNat + n.val - 1 ≤ 0xFFF → ∀ f, exec (.drw x y n) s ≠ .fault f)) ∧
  (∀ (x : Reg) (s : State),
    (0xFFF < s.i.toNat + 2 → exec (.ldBcd x) s = .fault (.addressOutOfRange (max s.i.toNat 0x1000))) ∧
    (s.i.toNat + 2 ≤ 0xFFF → ∀ f, exec (.ldBcd x) s ≠ .fault f)) ∧
  (∀ (x : Reg) (s : State),
    (0xFFF < s.i.toNat + x.val →
      exec (.storeRegs x) s = .fault (.addressOutOfRange (max s.i.toNat 0x1000)) ∧
      exec (.loadRegs x) s = .fault (.addressOutOfRange (max s.i.toNat 0x1000))) ∧
    (s.i.toNat + x.val ≤ 0xFFF → ∀ f, exec (.storeRegs x) s ≠ .fault f ∧ exec (.loadRegs x) s ≠ .fault f)) ∧
  (∀ (rnd : Byte) (s : State) (a : Nat), stepWith rnd s = .fault (.addressOutOfRange a) →
    portStep rnd s = (.stepFailed (.addressOutOfRange a), s))

/-- R252, R253; that the failed step leaves the whole state as it was is R124 with the spec's own decision D7 (log entry 8). -/
def Obligations.StackErrorsWhenAndHow : Prop :=
  (∀ (nnn : Addr12) (s : State), exec (.call nnn) s = .fault .stackOverflow ↔ s.sp.val = 16) ∧
  (∀ s : State, exec .ret s = .fault .stackUnderflow ↔ s.sp.val = 0) ∧
  (∀ (rnd : Byte) (s : State) (op : Word) (nnn : Addr12), s.fetch = .ok op → decode op = some (.call nnn) →
    s.sp.val = 16 → portStep rnd s = (.stepFailed .stackOverflow, s)) ∧
  (∀ (rnd : Byte) (s : State) (op : Word), s.fetch = .ok op → decode op = some .ret →
    s.sp.val = 0 → portStep rnd s = (.stepFailed .stackUnderflow, s))

/-- R251 and R268. The report of a skip is the spec's own decision D38, the default policy D4. -/
def Obligations.UnknownOpcodeHaltsOrIsSkipped : Prop :=
  ∀ (s : State) (op : Word), s.fetch = .ok op → decode op = none →
    (s.cfg.unknownPolicy = .halt → step s = .fault (.unknownOpcode op)) ∧
    (s.cfg.unknownPolicy = .skip →
      (∃ t, step s = .next t ∧ t.pc = s.pc + 2 ∧ ChangesOnly [.pc] s t) ∧
      ∀ rnd, ∃ o t, portStep rnd s = (.stepped o, t) ∧ t.pc = s.pc + 2 ∧ ChangesOnly [.pc] s t ∧
        o.displayChanged = false ∧ o.report = some (op, s.pc))

/-- R257; the order of the checks is the spec's own decision D7. -/
def Obligations.OnlyTheNamedErrorsAreRaised : Prop :=
  ∀ (i : Instr) (s : State),
    (∀ r, exec i s ≠ .refused r) ∧
    ∀ f, exec i s = .fault f →
      (i = .ret ∧ f = .stackUnderflow ∧ s.sp.val = 0) ∨
      (∃ nnn, i = .call nnn ∧ f = .stackOverflow ∧ s.sp.val = 16) ∨
      (∃ a, f = .addressOutOfRange a ∧ 0xFFF < a ∧
        ((∃ x y n, i = .drw x y n) ∨ (∃ x, i = .ldBcd x) ∨ (∃ x, i = .storeRegs x) ∨ (∃ x, i = .loadRegs x)))

/-- R124 for a failed step: that errors are precise and leave no latch is the spec's own decision D7, D8. R255 and R292
for a failed load: that nothing is copied is the spec's own decision D32 (log entry 8). -/
def Obligations.ErrorsLeaveTheStateUnchanged : Prop :=
  ∀ (x : Transaction) (s : State), (transact x s).1.ok = false →
    (transact x s).2 = s ∧ transact x (transact x s).2 = transact x s

/-- R123, both ways: the port answers `Ok` exactly when the step goes on, and `Err` with the state as it was when it fails
(R124, the spec's own decision D7). The fields of the outcome are the spec's own decisions D26, D38. -/
def Obligations.StepOutcomeTellsTheHost : Prop :=
  (∀ (rnd : Byte) (s t : State), stepWith rnd s = .next t → ∃ o, portStep rnd s = (.stepped o, t)) ∧
  (∀ (rnd : Byte) (s : State) (f : Fault), stepWith rnd s = .fault f → portStep rnd s = (.stepFailed f, s)) ∧
  ∀ (rnd : Byte) (s t : State) (o : StepOutcome), portStep rnd s = (.stepped o, t) →
    stepWith rnd s = .next t ∧ ∃ op, s.fetch = .ok op ∧
      (o.displayChanged = true ↔ op = 0x00E0#16 ∨ op.extractLsb' 12 4 = 0xD#4) ∧
      (o.toneActive = true ↔ t.st ≠ 0) ∧
      (decode op = none → o.report = some (op, s.pc)) ∧ ((decode op).isSome = true → o.report = none)

/-- R12: only `CXNN` reads the random byte (D34). Of two steps at one state that differ in the byte alone, a difference can
show only when the opcode fetched has top nibble C. The counter and the free byte are the model's own, log entry 2. -/
def Obligations.RandomByteReachesOnlyRnd : Prop :=
  (∀ (rnd : Byte) (s : State) (op : Word) (i : Instr), s.fetch = .ok op → decode op = some i →
    stepWith rnd s = execWith rnd i s) ∧
  (∀ (rnd : Byte) (i : Instr) (s : State), (∀ x nn, i ≠ .rnd x nn) → execWith rnd i s = exec i s) ∧
  (∀ (rnd : Byte) (s : State), (∀ op, s.fetch = .ok op → op.extractLsb' 12 4 ≠ 0xC#4) →
    stepWith rnd s = step s ∧ ∀ rnd', portStep rnd' s = portStep rnd s) ∧
  (∀ s : State, stepWith (Config.randomByte s.draws) s = step s)

/-- R24. The spec's own decisions (log entry 8): the key is `V[X] mod 16` D15, the lowest-numbered key and the level test of
`FX0A` D16, the sum of `BNNN` kept whole D18, the popped slot `STACK[SP - 1]` D22, a failed step D7, a skipped opcode D38. -/
def Obligations.ProgramCounterAdvances : Prop :=
  (∀ (i : Instr) (s t : State), exec i s = .next t →
    match i with
    | .seImm x nn => t.pc = if s.getV x = nn then s.pc + 4 else s.pc + 2
    | .sneImm x nn => t.pc = if s.getV x ≠ nn then s.pc + 4 else s.pc + 2
    | .seReg x y => t.pc = if s.getV x = s.getV y then s.pc + 4 else s.pc + 2
    | .sneReg x y => t.pc = if s.getV x ≠ s.getV y then s.pc + 4 else s.pc + 2
    | .skp x => ∀ k : Key, k.val = (s.getV x).toNat % 16 →
        t.pc = if s.keyPressed k = true then s.pc + 4 else s.pc + 2
    | .sknp x => ∀ k : Key, k.val = (s.getV x).toNat % 16 →
        t.pc = if s.keyPressed k = false then s.pc + 4 else s.pc + 2
    | .jp nnn | .call nnn => t.pc.toNat = nnn.toNat
    | .jpV0 nnn => t.pc.toNat = nnn.toNat + (s.getV 0).toNat
    | .ret => t.pc = s.stack[s.sp.val - 1]'(by omega)
    | .ldVxKey _ => ((∀ k, s.keyPressed k = false) → t.pc = s.pc) ∧ ((∃ k, s.keyPressed k = true) → t.pc = s.pc + 2)
    | _ => t.pc = s.pc + 2) ∧
  (∀ (rnd : Byte) (s t : State) (f : Fault), portStep rnd s = (.stepFailed f, t) → t.pc = s.pc) ∧
  (∀ (s : State) (op : Word), s.fetch = .ok op → decode op = none → s.cfg.unknownPolicy = .skip →
    ∃ t, step s = .next t ∧ t.pc = s.pc + 2)

/-- R38. The spec's own decisions (log entry 8): the shift source D3, the pixels a sprite covers D5, D6, flag after result D9,
the polarity of `8XY7` D10, no flag for logic D11, for `FX1E` D17, VF written 0 by a draw without collision D33. -/
def Obligations.FlagRegisterWriters : Prop :=
  ∀ (i : Instr) (s t : State), exec i s = .next t →
    match i with
    | .addReg x y => t.getV 15 = if 255 < (s.getV x).toNat + (s.getV y).toNat then 1 else 0
    | .subReg x y => t.getV 15 = if (s.getV x).toNat < (s.getV y).toNat then 1 else 0
    | .subnReg x y => t.getV 15 = if (s.getV y).toNat < (s.getV x).toNat then 1 else 0
    | .shrReg x y => t.getV 15 =
        if (match s.cfg.shiftSrc with | .x => s.getV x | .y => s.getV y).toNat % 2 = 1 then 1 else 0
    | .shlReg x y => t.getV 15 =
        if 128 ≤ (match s.cfg.shiftSrc with | .x => s.getV x | .y => s.getV y).toNat then 1 else 0
    | .drw x y n =>
      ((∃ k, SpriteCovers s.cfg.drawEdge (fun r => s.peek (s.i.toNat + r)) n.val ((s.getV x).toNat % 64)
        ((s.getV y).toNat % 32) k ∧ s.disp.pixel k = true) → t.getV 15 = 1) ∧
      ((¬ ∃ k, SpriteCovers s.cfg.drawEdge (fun r => s.peek (s.i.toNat + r)) n.val ((s.getV x).toNat % 64)
        ((s.getV y).toNat % 32) k ∧ s.disp.pixel k = true) → t.getV 15 = 0)
    | .ldImm x _ | .addImm x _ | .rnd x _ | .ldReg x _ | .orReg x _ | .andReg x _ | .xorReg x _ | .ldVxDt x
    | .ldVxKey x | .loadRegs x => x ≠ 15 → t.getV 15 = s.getV 15
    | _ => t.getV 15 = s.getV 15

/-- Each element of the state is written by no instruction but those listed for it -/
def Obligations.EachElementHasOnlyItsWriters : Prop :=
  ∀ (i : Instr) (s t : State), exec i s = .next t →
    (t.i ≠ s.i → (∃ nnn, i = .ldI nnn) ∨ (∃ x, i = .addI x) ∨ (∃ x, i = .ldFont x) ∨ (∃ x, i = .storeRegs x) ∨
      (∃ x, i = .loadRegs x)) ∧
    (t.sp ≠ s.sp → i = .ret ∨ ∃ nnn, i = .call nnn) ∧
    (t.stack ≠ s.stack → ∃ nnn, i = .call nnn) ∧
    (t.dt ≠ s.dt → ∃ x, i = .ldDtVx x) ∧
    (t.st ≠ s.st → ∃ x, i = .ldStVx x) ∧
    (t.mem ≠ s.mem → (∃ x, i = .ldBcd x) ∨ (∃ x, i = .storeRegs x)) ∧
    (t.disp ≠ s.disp → i = .cls ∨ ∃ x y n, i = .drw x y n) ∧
    (t.draw ≠ s.draw → t.draw = true ∧ (i = .cls ∨ ∃ x y n, i = .drw x y n)) ∧
    t.keys = s.keys ∧ t.cfg = s.cfg ∧
    (t.draws ≠ s.draws → ∃ x nn, i = .rnd x nn)

/-- No step reads the sound timer or the redraw flag -/
def Obligations.SoundTimerAndRedrawFlagAreNeverRead : Prop :=
  ∀ (s : State) (b : Byte) (d : Bool),
    Agree (fun t u => { u with st := t.st, draw := t.draw } = t) (step s) (step { s with st := b, draw := d })

/-- A step keeps the invariant: canonical memory, pc at most 0x10FE, stack slots at most 0x1000 -/
def Obligations.StepKeepsInv : Prop :=
  ∀ s t : State, s.Inv → step s = .next t → t.Inv

/-- The state after reset meets the invariant, under every configuration -/
def Obligations.ResetHasInv : Prop :=
  (∀ cfg : Config, (State.resetWith cfg).Inv) ∧ State.reset.Inv

/-- R25, R35, R60. Every transaction of the host, from every state that meets the invariant, whether it answers `Ok` or
`Err`; with `ResetHasInv`, every state the host can bring the machine to. -/
def Obligations.PcNeverExceeds0x10FE : Prop :=
  (∀ (x : Transaction) (s : State), s.Inv → (transact x s).2.Inv) ∧
  (∀ (x : Transaction) (s : State), (transact x s).2.cfg = s.cfg) ∧
  (∀ s : State, Reachable s → s.Inv) ∧
  (∀ (cfg : Config) (xs : List Transaction), (transactAll xs (State.resetWith cfg)).cfg = cfg)

/-- R150; the layout of the stack is the spec's own decision D22. -/
def Obligations.ReturnPops : Prop :=
  decode 0x00EE#16 = some .ret ∧
  (∀ (s : State), 0 < s.sp.val → ∃ t, exec .ret s = .next t ∧
    t.sp.val = s.sp.val - 1 ∧ t.pc = s.stack[s.sp.val - 1]'(by omega) ∧ ChangesOnly [.pc, .sp] s t) ∧
  (∀ (s : State), s.sp.val = 0 → exec .ret s = .fault .stackUnderflow)

/-- R151. That odd targets are accepted is the spec's own decision D20, targets below 0x200 D21, that a fetch at 0xFFF fails
at 0x1000 D36 (log entry 8). -/
def Obligations.JumpGoesToNnn : Prop :=
  (∀ op : Word, op.extractLsb' 12 4 = 0x1#4 → decode op = some (.jp (op.extractLsb' 0 12))) ∧
  ∀ (nnn : Addr12) (s : State), ∃ t, exec (.jp nnn) s = .next t ∧ t.pc.toNat = nnn.toNat ∧ ChangesOnly [.pc] s t ∧
    (nnn = 0xFFF#12 → step t = .fault (.addressOutOfRange 0x1000))

/-- R152; the layout of the stack is the spec's own decision D22, odd targets D20, targets below 0x200 D21 (log entry 8). -/
def Obligations.CallPushesTheNextAddress : Prop :=
  (∀ op : Word, op.extractLsb' 12 4 = 0x2#4 → decode op = some (.call (op.extractLsb' 0 12))) ∧
  (∀ (nnn : Addr12) (s : State) (h : s.sp.val < 16), ∃ t, exec (.call nnn) s = .next t ∧
    t.stack[s.sp.val] = s.pc + 2 ∧ (∀ k : Fin 16, k.val ≠ s.sp.val → t.stack[k] = s.stack[k]) ∧
    t.sp.val = s.sp.val + 1 ∧ t.pc.toNat = nnn.toNat ∧ ChangesOnly [.pc, .sp, .stack] s t) ∧
  (∀ (nnn : Addr12) (s : State), s.sp.val = 16 → exec (.call nnn) s = .fault .stackOverflow)

/-- R153; that the sum is kept whole is the spec's own decision D18, odd targets D20, targets below 0x200 D21 (log entry 8). -/
def Obligations.JumpIndexedByV0 : Prop :=
  (∀ op : Word, op.extractLsb' 12 4 = 0xB#4 → decode op = some (.jpV0 (op.extractLsb' 0 12))) ∧
  ∀ (nnn : Addr12) (s : State), ∃ t, exec (.jpV0 nnn) s = .next t ∧
    t.pc.toNat = nnn.toNat + (s.getV 0).toNat ∧ ChangesOnly [.pc] s t

/-- 3XNN skips when V[X] = NN. -/
def Obligations.SkipIfRegisterEqualsByte : Prop :=
  (∀ op : Word, op.extractLsb' 12 4 = 0x3#4 → decode op = some (.seImm (op.extractLsb' 8 4).toFin (op.extractLsb' 0 8))) ∧
  ∀ (x : Reg) (nn : Byte) (s : State), ∃ t, exec (.seImm x nn) s = .next t ∧
    t.pc = (if s.getV x = nn then s.pc + 4 else s.pc + 2) ∧ ChangesOnly [.pc] s t

/-- 4XNN skips when V[X] differs from NN. -/
def Obligations.SkipIfRegisterDiffersFromByte : Prop :=
  (∀ op : Word, op.extractLsb' 12 4 = 0x4#4 → decode op = some (.sneImm (op.extractLsb' 8 4).toFin (op.extractLsb' 0 8))) ∧
  ∀ (x : Reg) (nn : Byte) (s : State), ∃ t, exec (.sneImm x nn) s = .next t ∧
    t.pc = (if s.getV x ≠ nn then s.pc + 4 else s.pc + 2) ∧ ChangesOnly [.pc] s t

/-- 5XY0 skips when V[X] = V[Y]. (That only low nibble 0 is defined is the spec's own decision D13.) -/
def Obligations.SkipIfRegistersEqual : Prop :=
  (∀ op : Word, op.extractLsb' 12 4 = 0x5#4 → op.extractLsb' 0 4 = 0x0#4 → decode op = some (.seReg (op.extractLsb' 8 4).toFin (op.extractLsb' 4 4).toFin)) ∧
  ∀ (x y : Reg) (s : State), ∃ t, exec (.seReg x y) s = .next t ∧
    t.pc = (if s.getV x = s.getV y then s.pc + 4 else s.pc + 2) ∧ ChangesOnly [.pc] s t

/-- 9XY0 skips when V[X] differs from V[Y]. (That only low nibble 0 is defined is the spec's own decision D13.) -/
def Obligations.SkipIfRegistersDiffer : Prop :=
  (∀ op : Word, op.extractLsb' 12 4 = 0x9#4 → op.extractLsb' 0 4 = 0x0#4 → decode op = some (.sneReg (op.extractLsb' 8 4).toFin (op.extractLsb' 4 4).toFin)) ∧
  ∀ (x y : Reg) (s : State), ∃ t, exec (.sneReg x y) s = .next t ∧
    t.pc = (if s.getV x ≠ s.getV y then s.pc + 4 else s.pc + 2) ∧ ChangesOnly [.pc] s t

/-- R164; that the low nibble selects the key is the spec's own decision D15. -/
def Obligations.SkipIfKeyPressed : Prop :=
  (∀ op : Word, op.extractLsb' 12 4 = 0xE#4 → op.extractLsb' 0 8 = 0x9E#8 → decode op = some (.skp (op.extractLsb' 8 4).toFin)) ∧
  ∀ (x : Reg) (s : State) (k : Key), k.val = (s.getV x).toNat % 16 → ∃ t, exec (.skp x) s = .next t ∧
    t.pc = (if s.keyPressed k = true then s.pc + 4 else s.pc + 2) ∧ ChangesOnly [.pc] s t

/-- R165; that the low nibble selects the key is the spec's own decision D15. -/
def Obligations.SkipIfKeyReleased : Prop :=
  (∀ op : Word, op.extractLsb' 12 4 = 0xE#4 → op.extractLsb' 0 8 = 0xA1#8 → decode op = some (.sknp (op.extractLsb' 8 4).toFin)) ∧
  ∀ (x : Reg) (s : State) (k : Key), k.val = (s.getV x).toNat % 16 → ∃ t, exec (.sknp x) s = .next t ∧
    t.pc = (if s.keyPressed k = false then s.pc + 4 else s.pc + 2) ∧ ChangesOnly [.pc] s t

/-- 6XNN loads NN into V[X] -/
def Obligations.LoadImmediateWritesVx : Prop :=
  (∀ op : Word, op.extractLsb' 12 4 = 0x6#4 → decode op = some (.ldImm (op.extractLsb' 8 4).toFin (op.extractLsb' 0 8))) ∧
  ∀ (x : Reg) (nn : Byte) (s : State), ∃ t, exec (.ldImm x nn) s = .next t ∧
    t.getV x = nn ∧ t.pc = s.pc + 2 ∧ RegsSameBut [x] s t ∧ ChangesOnly [.regs, .pc] s t

/-- 7XNN adds NN to V[X] modulo 256 and writes no flag -/
def Obligations.AddImmediateWrapsWithoutFlag : Prop :=
  (∀ op : Word, op.extractLsb' 12 4 = 0x7#4 → decode op = some (.addImm (op.extractLsb' 8 4).toFin (op.extractLsb' 0 8))) ∧
  ∀ (x : Reg) (nn : Byte) (s : State), ∃ t, exec (.addImm x nn) s = .next t ∧
    (t.getV x).toNat = ((s.getV x).toNat + nn.toNat) % 256 ∧ t.pc = s.pc + 2 ∧ RegsSameBut [x] s t ∧ ChangesOnly [.regs, .pc] s t

/-- ANNN loads NNN into I -/
def Obligations.LoadIndexWritesNnn : Prop :=
  (∀ op : Word, op.extractLsb' 12 4 = 0xA#4 → decode op = some (.ldI (op.extractLsb' 0 12))) ∧
  ∀ (nnn : Addr12) (s : State), ∃ t, exec (.ldI nnn) s = .next t ∧
    t.i.toNat = nnn.toNat ∧ t.pc = s.pc + 2 ∧ ChangesOnly [.index, .pc] s t

/-- R173; the random input is the spec's own decision D34, the draw counter and the free byte are the model's, log entry 2. -/
def Obligations.RandomIsMaskedByNn : Prop :=
  (∀ op : Word, op.extractLsb' 12 4 = 0xC#4 → decode op = some (.rnd (op.extractLsb' 8 4).toFin (op.extractLsb' 0 8))) ∧
  (∀ (rnd : Byte) (x : Reg) (nn : Byte) (s : State), ∃ t, execWith rnd (.rnd x nn) s = .next t ∧
    t.getV x = rnd &&& nn ∧ t.pc = s.pc + 2 ∧ RegsSameBut [x] s t ∧ ChangesOnly [.regs, .pc, .draws] s t) ∧
  (∀ (x : Reg) (nn : Byte) (s : State), ∃ t,
    exec (.rnd x nn) s = .next t ∧ execWith (Config.randomByte s.draws) (.rnd x nn) s = .next t ∧
    t.getV x = Config.randomByte s.draws &&& nn ∧ (∀ k, nn.getLsbD k = false → (t.getV x).getLsbD k = false) ∧
    t.draws = s.draws + 1 ∧ t.pc = s.pc + 2 ∧ RegsSameBut [x] s t ∧ ChangesOnly [.regs, .pc, .draws] s t)

/-- R181. That VF is not touched is the spec's own decision D11, that low nibble 0 is assign D12 (log entry 8). -/
def Obligations.AssignCopiesVy : Prop :=
  (∀ op : Word, op.extractLsb' 12 4 = 0x8#4 → op.extractLsb' 0 4 = 0x0#4 → decode op = some (.ldReg (op.extractLsb' 8 4).toFin (op.extractLsb' 4 4).toFin)) ∧
  ∀ (x y : Reg) (s : State), ∃ t, exec (.ldReg x y) s = .next t ∧
    t.getV x = s.getV y ∧
    t.pc = s.pc + 2 ∧ RegsSameBut [x] s t ∧ ChangesOnly [.regs, .pc] s t

/-- R182. That VF is not touched is the spec's own decision D11, that low nibble 1 is OR D12 (log entry 8). -/
def Obligations.OrLeavesTheFlag : Prop :=
  (∀ op : Word, op.extractLsb' 12 4 = 0x8#4 → op.extractLsb' 0 4 = 0x1#4 → decode op = some (.orReg (op.extractLsb' 8 4).toFin (op.extractLsb' 4 4).toFin)) ∧
  ∀ (x y : Reg) (s : State), ∃ t, exec (.orReg x y) s = .next t ∧
    (∀ k < 8, (t.getV x).getLsbD k = ((s.getV x).getLsbD k || (s.getV y).getLsbD k)) ∧
    t.pc = s.pc + 2 ∧ RegsSameBut [x] s t ∧ ChangesOnly [.regs, .pc] s t

/-- R183. That VF is not touched is the spec's own decision D11, that low nibble 2 is AND D12 (log entry 8). -/
def Obligations.AndLeavesTheFlag : Prop :=
  (∀ op : Word, op.extractLsb' 12 4 = 0x8#4 → op.extractLsb' 0 4 = 0x2#4 → decode op = some (.andReg (op.extractLsb' 8 4).toFin (op.extractLsb' 4 4).toFin)) ∧
  ∀ (x y : Reg) (s : State), ∃ t, exec (.andReg x y) s = .next t ∧
    (∀ k < 8, (t.getV x).getLsbD k = ((s.getV x).getLsbD k && (s.getV y).getLsbD k)) ∧
    t.pc = s.pc + 2 ∧ RegsSameBut [x] s t ∧ ChangesOnly [.regs, .pc] s t

/-- R184. That VF is not touched is the spec's own decision D11, that low nibble 3 is XOR D12 (log entry 8). -/
def Obligations.XorLeavesTheFlag : Prop :=
  (∀ op : Word, op.extractLsb' 12 4 = 0x8#4 → op.extractLsb' 0 4 = 0x3#4 → decode op = some (.xorReg (op.extractLsb' 8 4).toFin (op.extractLsb' 4 4).toFin)) ∧
  ∀ (x y : Reg) (s : State), ∃ t, exec (.xorReg x y) s = .next t ∧
    (∀ k < 8, (t.getV x).getLsbD k = ((s.getV x).getLsbD k ^^ (s.getV y).getLsbD k)) ∧
    t.pc = s.pc + 2 ∧ RegsSameBut [x] s t ∧ ChangesOnly [.regs, .pc] s t

/-- 8XY4 adds V[Y] to V[X] modulo 256, VF = carry. (That the flag is written after the result is the spec's own decision D9.) -/
def Obligations.AddSetsCarry : Prop :=
  (∀ op : Word, op.extractLsb' 12 4 = 0x8#4 → op.extractLsb' 0 4 = 0x4#4 → decode op = some (.addReg (op.extractLsb' 8 4).toFin (op.extractLsb' 4 4).toFin)) ∧
  ∀ (x y : Reg) (s : State), ∃ t, exec (.addReg x y) s = .next t ∧
    (x ≠ 15 → (t.getV x).toNat = ((s.getV x).toNat + (s.getV y).toNat) % 256) ∧
    t.getV 15 = (if 255 < (s.getV x).toNat + (s.getV y).toNat then 1 else 0) ∧
    t.pc = s.pc + 2 ∧ RegsSameBut [x, 15] s t ∧ ChangesOnly [.regs, .pc] s t

/-- 8XY5 subtracts V[Y] from V[X] modulo 256, VF = 1 on a borrow. (That the flag is written after the result is the spec's own decision D9.) -/
def Obligations.SubSetsBorrow : Prop :=
  (∀ op : Word, op.extractLsb' 12 4 = 0x8#4 → op.extractLsb' 0 4 = 0x5#4 → decode op = some (.subReg (op.extractLsb' 8 4).toFin (op.extractLsb' 4 4).toFin)) ∧
  ∀ (x y : Reg) (s : State), ∃ t, exec (.subReg x y) s = .next t ∧
    (x ≠ 15 → ((t.getV x).toNat : Int) = (((s.getV x).toNat : Int) - (s.getV y).toNat) % 256) ∧
    t.getV 15 = (if (s.getV x).toNat < (s.getV y).toNat then 1 else 0) ∧
    t.pc = s.pc + 2 ∧ RegsSameBut [x, 15] s t ∧ ChangesOnly [.regs, .pc] s t

/-- 8XY6 shifts the SHIFT_SRC operand right by one into V[X], VF = bit 0. (The shift source is a parameter, D3; that the flag is written after the result is the spec's own decision D9.) -/
def Obligations.ShiftRightSetsShiftedOutBit : Prop :=
  (∀ op : Word, op.extractLsb' 12 4 = 0x8#4 → op.extractLsb' 0 4 = 0x6#4 → decode op = some (.shrReg (op.extractLsb' 8 4).toFin (op.extractLsb' 4 4).toFin)) ∧
  ∀ (x y : Reg) (s : State), ∃ t, exec (.shrReg x y) s = .next t ∧
    (x ≠ 15 → (t.getV x).toNat = (match s.cfg.shiftSrc with | .x => s.getV x | .y => s.getV y).toNat / 2) ∧
    t.getV 15 = (if (match s.cfg.shiftSrc with | .x => s.getV x | .y => s.getV y).toNat % 2 = 1 then 1 else 0) ∧
    t.pc = s.pc + 2 ∧ RegsSameBut [x, 15] s t ∧ ChangesOnly [.regs, .pc] s t

/-- 8XY7 puts V[Y] minus V[X] modulo 256 into V[X], VF = 1 on a borrow. (Flag after result D9, the polarity D10 and the nibble 7 D12 are the spec's own decisions.) -/
def Obligations.ReverseSubSetsBorrow : Prop :=
  (∀ op : Word, op.extractLsb' 12 4 = 0x8#4 → op.extractLsb' 0 4 = 0x7#4 → decode op = some (.subnReg (op.extractLsb' 8 4).toFin (op.extractLsb' 4 4).toFin)) ∧
  ∀ (x y : Reg) (s : State), ∃ t, exec (.subnReg x y) s = .next t ∧
    (x ≠ 15 → ((t.getV x).toNat : Int) = (((s.getV y).toNat : Int) - (s.getV x).toNat) % 256) ∧
    t.getV 15 = (if (s.getV y).toNat < (s.getV x).toNat then 1 else 0) ∧
    t.pc = s.pc + 2 ∧ RegsSameBut [x, 15] s t ∧ ChangesOnly [.regs, .pc] s t

/-- 8XYE shifts the SHIFT_SRC operand left by one into V[X], VF = bit 7. (The shift source is a parameter, D3; that the flag is written after the result is the spec's own decision D9.) -/
def Obligations.ShiftLeftSetsShiftedOutBit : Prop :=
  (∀ op : Word, op.extractLsb' 12 4 = 0x8#4 → op.extractLsb' 0 4 = 0xE#4 → decode op = some (.shlReg (op.extractLsb' 8 4).toFin (op.extractLsb' 4 4).toFin)) ∧
  ∀ (x y : Reg) (s : State), ∃ t, exec (.shlReg x y) s = .next t ∧
    (x ≠ 15 → (t.getV x).toNat = (match s.cfg.shiftSrc with | .x => s.getV x | .y => s.getV y).toNat * 2 % 256) ∧
    t.getV 15 = (if 128 ≤ (match s.cfg.shiftSrc with | .x => s.getV x | .y => s.getV y).toNat then 1 else 0) ∧
    t.pc = s.pc + 2 ∧ RegsSameBut [x, 15] s t ∧ ChangesOnly [.regs, .pc] s t

/-- R200; that `DRAW` is set on every execution is the spec's own decision D23. -/
def Obligations.ClearBlanksTheDisplay : Prop :=
  decode 0x00E0#16 = some .cls ∧
  ∀ s : State, ∃ t, exec .cls s = .next t ∧
    (∀ k, t.disp.pixel k = false) ∧ t.draw = true ∧ t.pc = s.pc + 2 ∧ ChangesOnly [.display, .redraw, .pc] s t

/-- R201 to R203. The spec's own decisions: edges D5, bit order D6, checks first D19, `DRAW` D23, VF without collision D33. -/
def Obligations.DrawXorsTheSprite : Prop :=
  (∀ op : Word, op.extractLsb' 12 4 = 0xD#4 →
    decode op = some (.drw (op.extractLsb' 8 4).toFin (op.extractLsb' 4 4).toFin (op.extractLsb' 0 4).toFin)) ∧
  (∀ (x y : Reg) (n : Fin 16) (s : State), (∀ r < n.val, s.i.toNat + r ≤ 0xFFF) →
    ∃ t, exec (.drw x y n) s = .next t ∧
      (∀ k, SpriteCovers s.cfg.drawEdge (fun r => s.peek (s.i.toNat + r)) n.val ((s.getV x).toNat % 64) ((s.getV y).toNat % 32) k → t.disp.pixel k = !s.disp.pixel k) ∧
      (∀ k, ¬ SpriteCovers s.cfg.drawEdge (fun r => s.peek (s.i.toNat + r)) n.val ((s.getV x).toNat % 64) ((s.getV y).toNat % 32) k → t.disp.pixel k = s.disp.pixel k) ∧
      ((∃ k, SpriteCovers s.cfg.drawEdge (fun r => s.peek (s.i.toNat + r)) n.val ((s.getV x).toNat % 64) ((s.getV y).toNat % 32) k ∧ s.disp.pixel k = true) → t.getV 15 = 1) ∧
      ((¬ ∃ k, SpriteCovers s.cfg.drawEdge (fun r => s.peek (s.i.toNat + r)) n.val ((s.getV x).toNat % 64) ((s.getV y).toNat % 32) k ∧ s.disp.pixel k = true) → t.getV 15 = 0) ∧
      t.draw = true ∧ t.pc = s.pc + 2 ∧ RegsSameBut [15] s t ∧ ChangesOnly [.regs, .display, .redraw, .pc] s t) ∧
  (∀ (x y : Reg) (n : Fin 16) (s : State) (r : Nat), r < n.val → 0xFFF < s.i.toNat + r →
    (∀ j < r, s.i.toNat + j ≤ 0xFFF) → exec (.drw x y n) s = .fault (.addressOutOfRange (s.i.toNat + r)))

/-- R201 corner cases; the statement of VF follows the spec's correction C2 of the source's sentence. The spec's own decisions
(log entry 8): the pixels a sprite covers D5, D6, VF written 0 by a draw without collision D33. -/
def Obligations.DrawingTwiceRestoresTheDisplay : Prop :=
  ∀ (x y : Reg) (n : Fin 16) (s t : State), exec (.drw x y n) s = .next t →
    (t.getV x).toNat % 64 = (s.getV x).toNat % 64 → (t.getV y).toNat % 32 = (s.getV y).toNat % 32 →
    ∃ u, exec (.drw x y n) t = .next u ∧ u.disp = s.disp ∧
      (u.getV 15 = 1 ↔ ∃ k, SpriteCovers s.cfg.drawEdge (fun r => s.peek (s.i.toNat + r)) n.val ((s.getV x).toNat % 64) ((s.getV y).toNat % 32) k ∧
        s.disp.pixel k = false) ∧ (u.getV 15 = 0 ∨ u.getV 15 = 1)

/-- FX07 reads the delay timer, which only FX15 raises and ticks bring to 0 -/
def Obligations.ReadDelayTimer : Prop :=
  (∀ op : Word, op.extractLsb' 12 4 = 0xF#4 → op.extractLsb' 0 8 = 0x07#8 → decode op = some (.ldVxDt (op.extractLsb' 8 4).toFin)) ∧
  (∀ (x : Reg) (s : State), ∃ t, exec (.ldVxDt x) s = .next t ∧
    t.getV x = s.dt ∧ t.pc = s.pc + 2 ∧ RegsSameBut [x] s t ∧ ChangesOnly [.regs, .pc] s t) ∧
  (∀ (tx : Transaction) (s : State), s.dt.toNat < (transact tx s).2.dt.toNat →
    ∃ rnd op x, tx = .step rnd ∧ s.fetch = .ok op ∧ decode op = some (.ldDtVx x)) ∧
  (∀ (s : State) (n : Nat), s.dt.toNat ≤ n → (transactAll (List.replicate n .tickTimers) s).dt = 0)

/-- R221; the lowest pressed key and the level test are the spec's own decision D16. -/
def Obligations.KeyWaitRetriesOrStores : Prop :=
  (∀ op : Word, op.extractLsb' 12 4 = 0xF#4 → op.extractLsb' 0 8 = 0x0A#8 → decode op = some (.ldVxKey (op.extractLsb' 8 4).toFin)) ∧
  (∀ (x : Reg) (s : State), (∀ k, s.keyPressed k = false) → exec (.ldVxKey x) s = .next s) ∧
  (∀ (x : Reg) (s : State) (k : Key), s.keyPressed k = true → (∀ j < k, s.keyPressed j = false) →
    ∃ t, exec (.ldVxKey x) s = .next t ∧ (t.getV x).toNat = k.val ∧ t.pc = s.pc + 2 ∧ RegsSameBut [x] s t ∧ ChangesOnly [.regs, .pc] s t)

/-- FX15 writes the delay timer -/
def Obligations.WriteDelayTimer : Prop :=
  (∀ op : Word, op.extractLsb' 12 4 = 0xF#4 → op.extractLsb' 0 8 = 0x15#8 → decode op = some (.ldDtVx (op.extractLsb' 8 4).toFin)) ∧
  ∀ (x : Reg) (s : State), ∃ t, exec (.ldDtVx x) s = .next t ∧
    t.dt = s.getV x ∧ t.pc = s.pc + 2 ∧ ChangesOnly [.delay, .pc] s t

/-- R223; the tone level is the spec's own decision D26, D27. -/
def Obligations.WriteSoundTimer : Prop :=
  (∀ op : Word, op.extractLsb' 12 4 = 0xF#4 → op.extractLsb' 0 8 = 0x18#8 → decode op = some (.ldStVx (op.extractLsb' 8 4).toFin)) ∧
  ∀ (x : Reg) (s : State), ∃ t, exec (.ldStVx x) s = .next t ∧
    t.st = s.getV x ∧ (toneActive t = true ↔ s.getV x ≠ 0) ∧ t.pc = s.pc + 2 ∧ ChangesOnly [.sound, .pc] s t

/-- R230; the wrap and the absence of a flag are the spec's own decision D17. -/
def Obligations.AddToIndexWrapsWithoutFlag : Prop :=
  (∀ op : Word, op.extractLsb' 12 4 = 0xF#4 → op.extractLsb' 0 8 = 0x1E#8 → decode op = some (.addI (op.extractLsb' 8 4).toFin)) ∧
  ∀ (x : Reg) (s : State), ∃ t, exec (.addI x) s = .next t ∧
    t.i.toNat = (s.i.toNat + (s.getV x).toNat) % 65536 ∧ t.pc = s.pc + 2 ∧ ChangesOnly [.index, .pc] s t

/-- R231; `FONT_BASE` is a parameter, D1. -/
def Obligations.FontAddressOfLowNibble : Prop :=
  (∀ op : Word, op.extractLsb' 12 4 = 0xF#4 → op.extractLsb' 0 8 = 0x29#8 → decode op = some (.ldFont (op.extractLsb' 8 4).toFin)) ∧
  ∀ (x : Reg) (s : State), ∃ t, exec (.ldFont x) s = .next t ∧
    t.i.toNat = (match s.cfg.fontBase with | .at000 => 0x000 | .at050 => 0x050) + 5 * ((s.getV x).toNat % 16) ∧
    t.pc = s.pc + 2 ∧ ChangesOnly [.index, .pc] s t

/-- R232; that all checks come before any write is the spec's own decision D19. -/
def Obligations.BcdStoresThreeDigits : Prop :=
  (∀ op : Word, op.extractLsb' 12 4 = 0xF#4 → op.extractLsb' 0 8 = 0x33#8 → decode op = some (.ldBcd (op.extractLsb' 8 4).toFin)) ∧
  (∀ (x : Reg) (s : State), Memory.wf s.cfg s.mem = true → s.i.toNat + 2 ≤ 0xFFF →
    ∃ t, exec (.ldBcd x) s = .next t ∧
      (t.peek s.i.toNat).toNat = (s.getV x).toNat / 100 ∧
      (t.peek (s.i.toNat + 1)).toNat = (s.getV x).toNat / 10 % 10 ∧
      (t.peek (s.i.toNat + 2)).toNat = (s.getV x).toNat % 10 ∧
      (∀ a, a < s.i.toNat ∨ s.i.toNat + 3 ≤ a → t.peek a = s.peek a) ∧
      t.pc = s.pc + 2 ∧ ChangesOnly [.memory, .pc] s t) ∧
  (∀ (x : Reg) (s : State) (k : Nat), k < 3 → 0xFFF < s.i.toNat + k →
    (∀ j < k, s.i.toNat + j ≤ 0xFFF) → exec (.ldBcd x) s = .fault (.addressOutOfRange (s.i.toNat + k)))

/-- R233; checks first, the order and the final I are the spec's own decisions D19, D35. -/
def Obligations.StoreRegistersAscending : Prop :=
  (∀ op : Word, op.extractLsb' 12 4 = 0xF#4 → op.extractLsb' 0 8 = 0x55#8 → decode op = some (.storeRegs (op.extractLsb' 8 4).toFin)) ∧
  (∀ (x : Reg) (s : State), Memory.wf s.cfg s.mem = true → s.i.toNat + x.val ≤ 0xFFF →
    ∃ t, exec (.storeRegs x) s = .next t ∧
      (∀ k : Reg, k.val ≤ x.val → t.peek (s.i.toNat + k.val) = s.getV k) ∧
      (∀ a, a < s.i.toNat ∨ s.i.toNat + x.val + 1 ≤ a → t.peek a = s.peek a) ∧
      t.i.toNat = s.i.toNat + x.val + 1 ∧ t.pc = s.pc + 2 ∧ ChangesOnly [.memory, .index, .pc] s t) ∧
  (∀ (x : Reg) (s : State) (k : Nat), k ≤ x.val → 0xFFF < s.i.toNat + k →
    (∀ j < k, s.i.toNat + j ≤ 0xFFF) → exec (.storeRegs x) s = .fault (.addressOutOfRange (s.i.toNat + k)))

/-- R234; checks first, the order and the final I are the spec's own decisions D19, D35. -/
def Obligations.LoadRegistersAscending : Prop :=
  (∀ op : Word, op.extractLsb' 12 4 = 0xF#4 → op.extractLsb' 0 8 = 0x65#8 → decode op = some (.loadRegs (op.extractLsb' 8 4).toFin)) ∧
  (∀ (x : Reg) (s : State), s.i.toNat + x.val ≤ 0xFFF →
    ∃ t, exec (.loadRegs x) s = .next t ∧
      (∀ k : Reg, k.val ≤ x.val → t.getV k = s.peek (s.i.toNat + k.val)) ∧
      (∀ k : Reg, x.val < k.val → t.getV k = s.getV k) ∧
      t.i.toNat = s.i.toNat + x.val + 1 ∧ t.pc = s.pc + 2 ∧ ChangesOnly [.regs, .index, .pc] s t) ∧
  (∀ (x : Reg) (s : State) (k : Nat), k ≤ x.val → 0xFFF < s.i.toNat + k →
    (∀ j < k, s.i.toNat + j ≤ 0xFFF) → exec (.loadRegs x) s = .fault (.addressOutOfRange (s.i.toNat + k)))

/-- R152's corner case and S4; the slot layout is the spec's own decision D22. -/
def Obligations.ReturnComesBackAfterTheCall : Prop :=
  ∀ (nnn : Addr12) (s t : State), exec (.call nnn) s = .next t →
    ∀ u : State, u.sp = t.sp → (∀ k : Fin 16, k.val = s.sp.val → u.stack[k] = t.stack[k]) →
      ∃ w, exec .ret u = .next w ∧ w.pc = s.pc + 2 ∧ w.sp = s.sp

/-- R73, R63, for any opcode `w`, defined or not. `withFetchWord` is the host's way of placing an opcode (log entry 4). That
`pc` may be odd is the spec's own decision D20, that it may lie below 0x200 D21 (log entry 8). -/
def Obligations.StoredInstructionIsFetchedNext : Prop :=
  ∀ s : State, Memory.wf s.cfg s.mem = true → s.pc.toNat ≤ 0xFFE →
    (∀ hi lo : Byte, ((s.poke s.pc.toNat hi).poke (s.pc.toNat + 1) lo).fetch = .ok (hi ++ lo)) ∧
    (∀ w : Nat, ChangesOnly [.memory] s (s.withFetchWord 16 w) ∧
      (s.withFetchWord 16 w).peek s.pc.toNat = BitVec.ofNat 8 (w / 256) ∧
      (s.withFetchWord 16 w).peek (s.pc.toNat + 1) = BitVec.ofNat 8 w ∧
      (s.withFetchWord 16 w).fetch = .ok (BitVec.ofNat 16 w) ∧
      (∀ a, a ≠ s.pc.toNat → a ≠ s.pc.toNat + 1 → (s.withFetchWord 16 w).peek a = s.peek a) ∧
      (∀ i, decode (BitVec.ofNat 16 w) = some i → step (s.withFetchWord 16 w) = exec i (s.withFetchWord 16 w)) ∧
      decodeTableWord 16 w = decode (BitVec.ofNat 16 w))

/-- R261, R262; the spec's own decisions (log entry 8): the tone level D26, the pulse D27, the host's tick D28, both timers in
one tick D39. -/
def Obligations.TickCountsBothTimersDown : Prop :=
  ∀ s : State, ∃ (stop : Bool) (t : State), transact .tickTimers s = (.ticked stop, t) ∧
    t.dt.toNat = s.dt.toNat - 1 ∧ t.st.toNat = s.st.toNat - 1 ∧ (stop = true ↔ s.st = 1) ∧
    (toneActive t = true ↔ t.st ≠ 0) ∧ ChangesOnly [.delay, .sound] s t

/-- R290, R36; `DRAW` and `KEYS` at reset are the spec's own decisions D23, D24, the draw counter is the model's, log entry 2. -/
def Obligations.ResetWritesEveryElement : Prop :=
  (∀ s : State, ∃ t, transact .reset s = (.done, t) ∧
    (∀ r, t.getV r = 0) ∧ t.i = 0 ∧ t.pc = 0x200 ∧ t.sp.val = 0 ∧ (∀ k : Fin 16, t.stack[k] = 0) ∧
    t.dt = 0 ∧ t.st = 0 ∧ (∀ k, t.disp.pixel k = false) ∧ t.draw = true ∧ (∀ k, t.keyPressed k = false) ∧
    t.cfg = s.cfg ∧
    (∀ k : Fin 80, t.peek ((match s.cfg.fontBase with | .at000 => 0x000 | .at050 => 0x050) + k.val) =
      s.cfg.fontTable[k]) ∧
    (∀ a, a < (match s.cfg.fontBase with | .at000 => 0x000 | .at050 => 0x050) ∨
      (match s.cfg.fontBase with | .at000 => 0x000 | .at050 => 0x050) + 80 ≤ a → t.peek a = 0) ∧
    transact .reset t = (.done, t) ∧
    ∀ s' : State, s'.cfg = s.cfg → s'.draws = s.draws → (transact .reset s').2 = t) ∧
  (transact .reset State.reset).2 = State.reset

/-- R292, R255; the spec's own decision D32. -/
def Obligations.LoadProgramCopiesOrFails : Prop :=
  ∀ (bytes : List Byte) (s : State),
    (Memory.wf s.cfg s.mem = true → bytes.length ≤ 3584 → ∃ t, transact (.loadProgram bytes) s = (.loaded, t) ∧
      (∀ k (h : k < bytes.length), t.peek (0x200 + k) = bytes[k]) ∧
      (∀ a, a < 0x200 ∨ 0x200 + bytes.length ≤ a → t.peek a = s.peek a) ∧ ChangesOnly [.memory] s t) ∧
    (3584 < bytes.length →
      transact (.loadProgram bytes) s = (.loadFailed (.programTooLarge bytes.length), s))

/-- R126 to R128. The clause on `clearRedraw` is R127, whose port name is the spec's own decision D30 (log entry 8). -/
def Obligations.HostReadsAndWritesItsOwn : Prop :=
  (∀ (k : Key) (p : Bool) (s : State), ∃ t, transact (.setKey k p) s = (.done, t) ∧
    t.keyPressed k = p ∧ (∀ j, j ≠ k → t.keyPressed j = s.keyPressed j) ∧ ChangesOnly [.keys] s t) ∧
  (∀ s : State, ∃ t, transact .clearRedraw s = (.done, t) ∧ t.draw = false ∧ ChangesOnly [.redraw] s t) ∧
  (∀ s : State, transact .getDisplay s = (.view s.disp s.draw, s))
end

