-- ==== Sys2Proof/Laws/Decode.lean ====
section
/-! SUPPORT. The fields of an encoded opcode, format by format (spec 30_encoding.md R91, R92), and the two bytes of an
opcode. -/

namespace Sys2Proof

/-! ## Format NNN -/

@[simp] theorem opMajor_encodeNNN (m : BitVec 4) (nnn : Addr12) : opMajor (encodeNNN m nnn) = m :=
  BitVec.extractLsb'_append_eq_left

@[simp] theorem opNNN_encodeNNN (m : BitVec 4) (nnn : Addr12) : opNNN (encodeNNN m nnn) = nnn :=
  BitVec.extractLsb'_append_eq_right

/-! ## Formats XNN and XKK -/

@[simp] theorem opMajor_encodeXNN (m : BitVec 4) (x : Reg) (nn : Byte) : opMajor (encodeXNN m x nn) = m :=
  (BitVec.extractLsb'_append_eq_of_le (by decide)).trans BitVec.extractLsb'_append_eq_left

@[simp] theorem opX_encodeXNN (m : BitVec 4) (x : Reg) (nn : Byte) : opX (encodeXNN m x nn) = x :=
  congrArg BitVec.toFin ((BitVec.extractLsb'_append_eq_of_le (xhi := m ++ (BitVec.ofFin x : BitVec 4)) (xlo := nn)
    (start := 8) (len := 4) (by decide)).trans BitVec.extractLsb'_append_eq_right)

@[simp] theorem opNN_encodeXNN (m : BitVec 4) (x : Reg) (nn : Byte) : opNN (encodeXNN m x nn) = nn :=
  BitVec.extractLsb'_append_eq_right

/-! ## Format XYN -/

@[simp] theorem opMajor_encodeXYN (m : BitVec 4) (x y : Reg) (n : BitVec 4) : opMajor (encodeXYN m x y n) = m :=
  (BitVec.extractLsb'_append_eq_of_le (by decide)).trans
    ((BitVec.extractLsb'_append_eq_of_le (by decide)).trans BitVec.extractLsb'_append_eq_left)

@[simp] theorem opX_encodeXYN (m : BitVec 4) (x y : Reg) (n : BitVec 4) : opX (encodeXYN m x y n) = x :=
  congrArg BitVec.toFin ((BitVec.extractLsb'_append_eq_of_le
    (xhi := m ++ (BitVec.ofFin x : BitVec 4) ++ (BitVec.ofFin y : BitVec 4)) (xlo := n) (start := 8) (len := 4)
    (by decide)).trans ((BitVec.extractLsb'_append_eq_of_le (by decide)).trans BitVec.extractLsb'_append_eq_right))

@[simp] theorem opY_encodeXYN (m : BitVec 4) (x y : Reg) (n : BitVec 4) : opY (encodeXYN m x y n) = y :=
  congrArg BitVec.toFin ((BitVec.extractLsb'_append_eq_of_le
    (xhi := m ++ (BitVec.ofFin x : BitVec 4) ++ (BitVec.ofFin y : BitVec 4)) (xlo := n) (start := 4) (len := 4)
    (by decide)).trans BitVec.extractLsb'_append_eq_right)

@[simp] theorem opN_encodeXYN (m : BitVec 4) (x y : Reg) (n : BitVec 4) : opN (encodeXYN m x y n) = n :=
  BitVec.extractLsb'_append_eq_right

/-! ## An opcode and its parts -/

/-- An opcode is its high byte above its low byte (R63). -/
theorem word_eq_bytes (op : Word) : (op.extractLsb' 8 8 : Byte) ++ (op.extractLsb' 0 8 : Byte) = op :=
  BitVec.extractLsb'_append_extractLsb'_eq_extractLsb' (by decide) |>.trans BitVec.extractLsb'_eq_self

/-- A word of format NNN is the encoding of its fields. -/
theorem encodeNNN_fields (op : Word) : encodeNNN (opMajor op) (opNNN op) = op :=
  BitVec.extractLsb'_append_extractLsb'_eq_extractLsb' (by decide) |>.trans BitVec.extractLsb'_eq_self

/-- A word of format XNN is the encoding of its fields. -/
theorem encodeXNN_fields (op : Word) : encodeXNN (opMajor op) (opX op) (opNN op) = op := by
  show (op.extractLsb' 12 4 ++ op.extractLsb' 8 4) ++ op.extractLsb' 0 8 = op
  rw [BitVec.extractLsb'_append_extractLsb'_eq_extractLsb' (by decide)]
  exact BitVec.extractLsb'_append_extractLsb'_eq_extractLsb' (by decide) |>.trans BitVec.extractLsb'_eq_self

/-- A word of format XYN is the encoding of its fields. -/
theorem encodeXYN_fields (op : Word) : encodeXYN (opMajor op) (opX op) (opY op) (opN op) = op := by
  show ((op.extractLsb' 12 4 ++ op.extractLsb' 8 4) ++ op.extractLsb' 4 4) ++ op.extractLsb' 0 4 = op
  rw [BitVec.extractLsb'_append_extractLsb'_eq_extractLsb' (by decide),
    BitVec.extractLsb'_append_extractLsb'_eq_extractLsb' (by decide)]
  exact BitVec.extractLsb'_append_extractLsb'_eq_extractLsb' (by decide) |>.trans BitVec.extractLsb'_eq_self

end Sys2Proof
end

