-- ==== Sys2Proof/Laws/State.lean ====
section
/-! SUPPORT. One lemma per field per update of the state, and what a register, a byte of memory and the call stack read
as after an update. -/

namespace Sys2Proof.Machine

/-! ### `State.setV` -/

@[simp] theorem State.setV_cfg (s : State) (x : Reg) (b : Byte) : (s.setV x b).cfg = s.cfg := rfl
@[simp] theorem State.setV_v (s : State) (x : Reg) (b : Byte) : (s.setV x b).v = s.v.set x b := rfl
@[simp] theorem State.setV_i (s : State) (x : Reg) (b : Byte) : (s.setV x b).i = s.i := rfl
@[simp] theorem State.setV_pc (s : State) (x : Reg) (b : Byte) : (s.setV x b).pc = s.pc := rfl
@[simp] theorem State.setV_sp (s : State) (x : Reg) (b : Byte) : (s.setV x b).sp = s.sp := rfl
@[simp] theorem State.setV_stack (s : State) (x : Reg) (b : Byte) : (s.setV x b).stack = s.stack := rfl
@[simp] theorem State.setV_dt (s : State) (x : Reg) (b : Byte) : (s.setV x b).dt = s.dt := rfl
@[simp] theorem State.setV_st (s : State) (x : Reg) (b : Byte) : (s.setV x b).st = s.st := rfl
@[simp] theorem State.setV_mem (s : State) (x : Reg) (b : Byte) : (s.setV x b).mem = s.mem := rfl
@[simp] theorem State.setV_disp (s : State) (x : Reg) (b : Byte) : (s.setV x b).disp = s.disp := rfl
@[simp] theorem State.setV_draw (s : State) (x : Reg) (b : Byte) : (s.setV x b).draw = s.draw := rfl
@[simp] theorem State.setV_keys (s : State) (x : Reg) (b : Byte) : (s.setV x b).keys = s.keys := rfl
@[simp] theorem State.setV_draws (s : State) (x : Reg) (b : Byte) : (s.setV x b).draws = s.draws := rfl

/-! ### `State.setI` -/

@[simp] theorem State.setI_cfg (s : State) (w : Word) : (s.setI w).cfg = s.cfg := rfl
@[simp] theorem State.setI_v (s : State) (w : Word) : (s.setI w).v = s.v := rfl
@[simp] theorem State.setI_i (s : State) (w : Word) : (s.setI w).i = w := rfl
@[simp] theorem State.setI_pc (s : State) (w : Word) : (s.setI w).pc = s.pc := rfl
@[simp] theorem State.setI_sp (s : State) (w : Word) : (s.setI w).sp = s.sp := rfl
@[simp] theorem State.setI_stack (s : State) (w : Word) : (s.setI w).stack = s.stack := rfl
@[simp] theorem State.setI_dt (s : State) (w : Word) : (s.setI w).dt = s.dt := rfl
@[simp] theorem State.setI_st (s : State) (w : Word) : (s.setI w).st = s.st := rfl
@[simp] theorem State.setI_mem (s : State) (w : Word) : (s.setI w).mem = s.mem := rfl
@[simp] theorem State.setI_disp (s : State) (w : Word) : (s.setI w).disp = s.disp := rfl
@[simp] theorem State.setI_draw (s : State) (w : Word) : (s.setI w).draw = s.draw := rfl
@[simp] theorem State.setI_keys (s : State) (w : Word) : (s.setI w).keys = s.keys := rfl
@[simp] theorem State.setI_draws (s : State) (w : Word) : (s.setI w).draws = s.draws := rfl

/-! ### `State.setPc` -/

@[simp] theorem State.setPc_cfg (s : State) (w : Word) : (s.setPc w).cfg = s.cfg := rfl
@[simp] theorem State.setPc_v (s : State) (w : Word) : (s.setPc w).v = s.v := rfl
@[simp] theorem State.setPc_i (s : State) (w : Word) : (s.setPc w).i = s.i := rfl
@[simp] theorem State.setPc_pc (s : State) (w : Word) : (s.setPc w).pc = w := rfl
@[simp] theorem State.setPc_sp (s : State) (w : Word) : (s.setPc w).sp = s.sp := rfl
@[simp] theorem State.setPc_stack (s : State) (w : Word) : (s.setPc w).stack = s.stack := rfl
@[simp] theorem State.setPc_dt (s : State) (w : Word) : (s.setPc w).dt = s.dt := rfl
@[simp] theorem State.setPc_st (s : State) (w : Word) : (s.setPc w).st = s.st := rfl
@[simp] theorem State.setPc_mem (s : State) (w : Word) : (s.setPc w).mem = s.mem := rfl
@[simp] theorem State.setPc_disp (s : State) (w : Word) : (s.setPc w).disp = s.disp := rfl
@[simp] theorem State.setPc_draw (s : State) (w : Word) : (s.setPc w).draw = s.draw := rfl
@[simp] theorem State.setPc_keys (s : State) (w : Word) : (s.setPc w).keys = s.keys := rfl
@[simp] theorem State.setPc_draws (s : State) (w : Word) : (s.setPc w).draws = s.draws := rfl

/-! ### `State.advance` -/

@[simp] theorem State.advance_cfg (s : State) : (s.advance).cfg = s.cfg := rfl
@[simp] theorem State.advance_v (s : State) : (s.advance).v = s.v := rfl
@[simp] theorem State.advance_i (s : State) : (s.advance).i = s.i := rfl
@[simp] theorem State.advance_pc (s : State) : (s.advance).pc = s.pc + 2 := rfl
@[simp] theorem State.advance_sp (s : State) : (s.advance).sp = s.sp := rfl
@[simp] theorem State.advance_stack (s : State) : (s.advance).stack = s.stack := rfl
@[simp] theorem State.advance_dt (s : State) : (s.advance).dt = s.dt := rfl
@[simp] theorem State.advance_st (s : State) : (s.advance).st = s.st := rfl
@[simp] theorem State.advance_mem (s : State) : (s.advance).mem = s.mem := rfl
@[simp] theorem State.advance_disp (s : State) : (s.advance).disp = s.disp := rfl
@[simp] theorem State.advance_draw (s : State) : (s.advance).draw = s.draw := rfl
@[simp] theorem State.advance_keys (s : State) : (s.advance).keys = s.keys := rfl
@[simp] theorem State.advance_draws (s : State) : (s.advance).draws = s.draws := rfl

/-! ### `State.setDT` -/

@[simp] theorem State.setDT_cfg (s : State) (b : Byte) : (s.setDT b).cfg = s.cfg := rfl
@[simp] theorem State.setDT_v (s : State) (b : Byte) : (s.setDT b).v = s.v := rfl
@[simp] theorem State.setDT_i (s : State) (b : Byte) : (s.setDT b).i = s.i := rfl
@[simp] theorem State.setDT_pc (s : State) (b : Byte) : (s.setDT b).pc = s.pc := rfl
@[simp] theorem State.setDT_sp (s : State) (b : Byte) : (s.setDT b).sp = s.sp := rfl
@[simp] theorem State.setDT_stack (s : State) (b : Byte) : (s.setDT b).stack = s.stack := rfl
@[simp] theorem State.setDT_dt (s : State) (b : Byte) : (s.setDT b).dt = b := rfl
@[simp] theorem State.setDT_st (s : State) (b : Byte) : (s.setDT b).st = s.st := rfl
@[simp] theorem State.setDT_mem (s : State) (b : Byte) : (s.setDT b).mem = s.mem := rfl
@[simp] theorem State.setDT_disp (s : State) (b : Byte) : (s.setDT b).disp = s.disp := rfl
@[simp] theorem State.setDT_draw (s : State) (b : Byte) : (s.setDT b).draw = s.draw := rfl
@[simp] theorem State.setDT_keys (s : State) (b : Byte) : (s.setDT b).keys = s.keys := rfl
@[simp] theorem State.setDT_draws (s : State) (b : Byte) : (s.setDT b).draws = s.draws := rfl

/-! ### `State.setST` -/

@[simp] theorem State.setST_cfg (s : State) (b : Byte) : (s.setST b).cfg = s.cfg := rfl
@[simp] theorem State.setST_v (s : State) (b : Byte) : (s.setST b).v = s.v := rfl
@[simp] theorem State.setST_i (s : State) (b : Byte) : (s.setST b).i = s.i := rfl
@[simp] theorem State.setST_pc (s : State) (b : Byte) : (s.setST b).pc = s.pc := rfl
@[simp] theorem State.setST_sp (s : State) (b : Byte) : (s.setST b).sp = s.sp := rfl
@[simp] theorem State.setST_stack (s : State) (b : Byte) : (s.setST b).stack = s.stack := rfl
@[simp] theorem State.setST_dt (s : State) (b : Byte) : (s.setST b).dt = s.dt := rfl
@[simp] theorem State.setST_st (s : State) (b : Byte) : (s.setST b).st = b := rfl
@[simp] theorem State.setST_mem (s : State) (b : Byte) : (s.setST b).mem = s.mem := rfl
@[simp] theorem State.setST_disp (s : State) (b : Byte) : (s.setST b).disp = s.disp := rfl
@[simp] theorem State.setST_draw (s : State) (b : Byte) : (s.setST b).draw = s.draw := rfl
@[simp] theorem State.setST_keys (s : State) (b : Byte) : (s.setST b).keys = s.keys := rfl
@[simp] theorem State.setST_draws (s : State) (b : Byte) : (s.setST b).draws = s.draws := rfl

/-! ### `State.nextDraw` -/

@[simp] theorem State.nextDraw_cfg (s : State) : (s.nextDraw).cfg = s.cfg := rfl
@[simp] theorem State.nextDraw_v (s : State) : (s.nextDraw).v = s.v := rfl
@[simp] theorem State.nextDraw_i (s : State) : (s.nextDraw).i = s.i := rfl
@[simp] theorem State.nextDraw_pc (s : State) : (s.nextDraw).pc = s.pc := rfl
@[simp] theorem State.nextDraw_sp (s : State) : (s.nextDraw).sp = s.sp := rfl
@[simp] theorem State.nextDraw_stack (s : State) : (s.nextDraw).stack = s.stack := rfl
@[simp] theorem State.nextDraw_dt (s : State) : (s.nextDraw).dt = s.dt := rfl
@[simp] theorem State.nextDraw_st (s : State) : (s.nextDraw).st = s.st := rfl
@[simp] theorem State.nextDraw_mem (s : State) : (s.nextDraw).mem = s.mem := rfl
@[simp] theorem State.nextDraw_disp (s : State) : (s.nextDraw).disp = s.disp := rfl
@[simp] theorem State.nextDraw_draw (s : State) : (s.nextDraw).draw = s.draw := rfl
@[simp] theorem State.nextDraw_keys (s : State) : (s.nextDraw).keys = s.keys := rfl
@[simp] theorem State.nextDraw_draws (s : State) : (s.nextDraw).draws = s.draws + 1 := rfl

/-! ### `State.poke` -/

@[simp] theorem State.poke_cfg (s : State) (a : Nat) (b : Byte) : (s.poke a b).cfg = s.cfg := rfl
@[simp] theorem State.poke_v (s : State) (a : Nat) (b : Byte) : (s.poke a b).v = s.v := rfl
@[simp] theorem State.poke_i (s : State) (a : Nat) (b : Byte) : (s.poke a b).i = s.i := rfl
@[simp] theorem State.poke_pc (s : State) (a : Nat) (b : Byte) : (s.poke a b).pc = s.pc := rfl
@[simp] theorem State.poke_sp (s : State) (a : Nat) (b : Byte) : (s.poke a b).sp = s.sp := rfl
@[simp] theorem State.poke_stack (s : State) (a : Nat) (b : Byte) : (s.poke a b).stack = s.stack := rfl
@[simp] theorem State.poke_dt (s : State) (a : Nat) (b : Byte) : (s.poke a b).dt = s.dt := rfl
@[simp] theorem State.poke_st (s : State) (a : Nat) (b : Byte) : (s.poke a b).st = s.st := rfl
@[simp] theorem State.poke_mem (s : State) (a : Nat) (b : Byte) : (s.poke a b).mem = Memory.write s.cfg s.mem a b := rfl
@[simp] theorem State.poke_disp (s : State) (a : Nat) (b : Byte) : (s.poke a b).disp = s.disp := rfl
@[simp] theorem State.poke_draw (s : State) (a : Nat) (b : Byte) : (s.poke a b).draw = s.draw := rfl
@[simp] theorem State.poke_keys (s : State) (a : Nat) (b : Byte) : (s.poke a b).keys = s.keys := rfl
@[simp] theorem State.poke_draws (s : State) (a : Nat) (b : Byte) : (s.poke a b).draws = s.draws := rfl

/-! ### `State.setDisplay` -/

@[simp] theorem State.setDisplay_cfg (s : State) (d : Display) : (s.setDisplay d).cfg = s.cfg := rfl
@[simp] theorem State.setDisplay_v (s : State) (d : Display) : (s.setDisplay d).v = s.v := rfl
@[simp] theorem State.setDisplay_i (s : State) (d : Display) : (s.setDisplay d).i = s.i := rfl
@[simp] theorem State.setDisplay_pc (s : State) (d : Display) : (s.setDisplay d).pc = s.pc := rfl
@[simp] theorem State.setDisplay_sp (s : State) (d : Display) : (s.setDisplay d).sp = s.sp := rfl
@[simp] theorem State.setDisplay_stack (s : State) (d : Display) : (s.setDisplay d).stack = s.stack := rfl
@[simp] theorem State.setDisplay_dt (s : State) (d : Display) : (s.setDisplay d).dt = s.dt := rfl
@[simp] theorem State.setDisplay_st (s : State) (d : Display) : (s.setDisplay d).st = s.st := rfl
@[simp] theorem State.setDisplay_mem (s : State) (d : Display) : (s.setDisplay d).mem = s.mem := rfl
@[simp] theorem State.setDisplay_disp (s : State) (d : Display) : (s.setDisplay d).disp = d := rfl
@[simp] theorem State.setDisplay_draw (s : State) (d : Display) : (s.setDisplay d).draw = true := rfl
@[simp] theorem State.setDisplay_keys (s : State) (d : Display) : (s.setDisplay d).keys = s.keys := rfl
@[simp] theorem State.setDisplay_draws (s : State) (d : Display) : (s.setDisplay d).draws = s.draws := rfl

/-! ### `State.setFlag` -/

@[simp] theorem State.setFlag_cfg (s : State) (f : Bool) : (s.setFlag f).cfg = s.cfg := rfl
@[simp] theorem State.setFlag_i (s : State) (f : Bool) : (s.setFlag f).i = s.i := rfl
@[simp] theorem State.setFlag_pc (s : State) (f : Bool) : (s.setFlag f).pc = s.pc := rfl
@[simp] theorem State.setFlag_sp (s : State) (f : Bool) : (s.setFlag f).sp = s.sp := rfl
@[simp] theorem State.setFlag_stack (s : State) (f : Bool) : (s.setFlag f).stack = s.stack := rfl
@[simp] theorem State.setFlag_dt (s : State) (f : Bool) : (s.setFlag f).dt = s.dt := rfl
@[simp] theorem State.setFlag_st (s : State) (f : Bool) : (s.setFlag f).st = s.st := rfl
@[simp] theorem State.setFlag_mem (s : State) (f : Bool) : (s.setFlag f).mem = s.mem := rfl
@[simp] theorem State.setFlag_disp (s : State) (f : Bool) : (s.setFlag f).disp = s.disp := rfl
@[simp] theorem State.setFlag_draw (s : State) (f : Bool) : (s.setFlag f).draw = s.draw := rfl
@[simp] theorem State.setFlag_keys (s : State) (f : Bool) : (s.setFlag f).keys = s.keys := rfl
@[simp] theorem State.setFlag_draws (s : State) (f : Bool) : (s.setFlag f).draws = s.draws := rfl

/-! ### `State.setResultAndFlag` -/

@[simp] theorem State.setResultAndFlag_cfg (s : State) (x : Reg) (r : Byte) (f : Bool) : (s.setResultAndFlag x r f).cfg = s.cfg := rfl
@[simp] theorem State.setResultAndFlag_i (s : State) (x : Reg) (r : Byte) (f : Bool) : (s.setResultAndFlag x r f).i = s.i := rfl
@[simp] theorem State.setResultAndFlag_pc (s : State) (x : Reg) (r : Byte) (f : Bool) : (s.setResultAndFlag x r f).pc = s.pc := rfl
@[simp] theorem State.setResultAndFlag_sp (s : State) (x : Reg) (r : Byte) (f : Bool) : (s.setResultAndFlag x r f).sp = s.sp := rfl
@[simp] theorem State.setResultAndFlag_stack (s : State) (x : Reg) (r : Byte) (f : Bool) : (s.setResultAndFlag x r f).stack = s.stack := rfl
@[simp] theorem State.setResultAndFlag_dt (s : State) (x : Reg) (r : Byte) (f : Bool) : (s.setResultAndFlag x r f).dt = s.dt := rfl
@[simp] theorem State.setResultAndFlag_st (s : State) (x : Reg) (r : Byte) (f : Bool) : (s.setResultAndFlag x r f).st = s.st := rfl
@[simp] theorem State.setResultAndFlag_mem (s : State) (x : Reg) (r : Byte) (f : Bool) : (s.setResultAndFlag x r f).mem = s.mem := rfl
@[simp] theorem State.setResultAndFlag_disp (s : State) (x : Reg) (r : Byte) (f : Bool) : (s.setResultAndFlag x r f).disp = s.disp := rfl
@[simp] theorem State.setResultAndFlag_draw (s : State) (x : Reg) (r : Byte) (f : Bool) : (s.setResultAndFlag x r f).draw = s.draw := rfl
@[simp] theorem State.setResultAndFlag_keys (s : State) (x : Reg) (r : Byte) (f : Bool) : (s.setResultAndFlag x r f).keys = s.keys := rfl
@[simp] theorem State.setResultAndFlag_draws (s : State) (x : Reg) (r : Byte) (f : Bool) : (s.setResultAndFlag x r f).draws = s.draws := rfl

/-! ### `State.loadLowRegs` -/

@[simp] theorem State.loadLowRegs_cfg (s : State) (base : Nat) (x : Reg) : (s.loadLowRegs base x).cfg = s.cfg := rfl
@[simp] theorem State.loadLowRegs_i (s : State) (base : Nat) (x : Reg) : (s.loadLowRegs base x).i = s.i := rfl
@[simp] theorem State.loadLowRegs_pc (s : State) (base : Nat) (x : Reg) : (s.loadLowRegs base x).pc = s.pc := rfl
@[simp] theorem State.loadLowRegs_sp (s : State) (base : Nat) (x : Reg) : (s.loadLowRegs base x).sp = s.sp := rfl
@[simp] theorem State.loadLowRegs_stack (s : State) (base : Nat) (x : Reg) : (s.loadLowRegs base x).stack = s.stack := rfl
@[simp] theorem State.loadLowRegs_dt (s : State) (base : Nat) (x : Reg) : (s.loadLowRegs base x).dt = s.dt := rfl
@[simp] theorem State.loadLowRegs_st (s : State) (base : Nat) (x : Reg) : (s.loadLowRegs base x).st = s.st := rfl
@[simp] theorem State.loadLowRegs_mem (s : State) (base : Nat) (x : Reg) : (s.loadLowRegs base x).mem = s.mem := rfl
@[simp] theorem State.loadLowRegs_disp (s : State) (base : Nat) (x : Reg) : (s.loadLowRegs base x).disp = s.disp := rfl
@[simp] theorem State.loadLowRegs_draw (s : State) (base : Nat) (x : Reg) : (s.loadLowRegs base x).draw = s.draw := rfl
@[simp] theorem State.loadLowRegs_keys (s : State) (base : Nat) (x : Reg) : (s.loadLowRegs base x).keys = s.keys := rfl
@[simp] theorem State.loadLowRegs_draws (s : State) (base : Nat) (x : Reg) : (s.loadLowRegs base x).draws = s.draws := rfl

/-! ### `State.skipIf` -/

@[simp] theorem State.skipIf_cfg (s : State) (c : Bool) : (s.skipIf c).cfg = s.cfg := by cases c <;> rfl
@[simp] theorem State.skipIf_v (s : State) (c : Bool) : (s.skipIf c).v = s.v := by cases c <;> rfl
@[simp] theorem State.skipIf_i (s : State) (c : Bool) : (s.skipIf c).i = s.i := by cases c <;> rfl
@[simp] theorem State.skipIf_sp (s : State) (c : Bool) : (s.skipIf c).sp = s.sp := by cases c <;> rfl
@[simp] theorem State.skipIf_stack (s : State) (c : Bool) : (s.skipIf c).stack = s.stack := by cases c <;> rfl
@[simp] theorem State.skipIf_dt (s : State) (c : Bool) : (s.skipIf c).dt = s.dt := by cases c <;> rfl
@[simp] theorem State.skipIf_st (s : State) (c : Bool) : (s.skipIf c).st = s.st := by cases c <;> rfl
@[simp] theorem State.skipIf_mem (s : State) (c : Bool) : (s.skipIf c).mem = s.mem := by cases c <;> rfl
@[simp] theorem State.skipIf_disp (s : State) (c : Bool) : (s.skipIf c).disp = s.disp := by cases c <;> rfl
@[simp] theorem State.skipIf_draw (s : State) (c : Bool) : (s.skipIf c).draw = s.draw := by cases c <;> rfl
@[simp] theorem State.skipIf_keys (s : State) (c : Bool) : (s.skipIf c).keys = s.keys := by cases c <;> rfl
@[simp] theorem State.skipIf_draws (s : State) (c : Bool) : (s.skipIf c).draws = s.draws := by cases c <;> rfl

@[simp] theorem State.skipIf_pc (s : State) (c : Bool) :
    (s.skipIf c).pc = if c = true then s.pc + 4 else s.pc + 2 := by cases c <;> rfl

/-! ### `State.pokeList` -/

@[simp] theorem State.pokeList_cfg (s : State) (a : Nat) (bs : List Byte) : (s.pokeList a bs).cfg = s.cfg := by
  induction bs generalizing s a with
  | nil => rfl
  | cons b bs ih => rw [State.pokeList, ih, State.poke_cfg]

@[simp] theorem State.pokeList_v (s : State) (a : Nat) (bs : List Byte) : (s.pokeList a bs).v = s.v := by
  induction bs generalizing s a with
  | nil => rfl
  | cons b bs ih => rw [State.pokeList, ih, State.poke_v]

@[simp] theorem State.pokeList_i (s : State) (a : Nat) (bs : List Byte) : (s.pokeList a bs).i = s.i := by
  induction bs generalizing s a with
  | nil => rfl
  | cons b bs ih => rw [State.pokeList, ih, State.poke_i]

@[simp] theorem State.pokeList_pc (s : State) (a : Nat) (bs : List Byte) : (s.pokeList a bs).pc = s.pc := by
  induction bs generalizing s a with
  | nil => rfl
  | cons b bs ih => rw [State.pokeList, ih, State.poke_pc]

@[simp] theorem State.pokeList_sp (s : State) (a : Nat) (bs : List Byte) : (s.pokeList a bs).sp = s.sp := by
  induction bs generalizing s a with
  | nil => rfl
  | cons b bs ih => rw [State.pokeList, ih, State.poke_sp]

@[simp] theorem State.pokeList_stack (s : State) (a : Nat) (bs : List Byte) : (s.pokeList a bs).stack = s.stack := by
  induction bs generalizing s a with
  | nil => rfl
  | cons b bs ih => rw [State.pokeList, ih, State.poke_stack]

@[simp] theorem State.pokeList_dt (s : State) (a : Nat) (bs : List Byte) : (s.pokeList a bs).dt = s.dt := by
  induction bs generalizing s a with
  | nil => rfl
  | cons b bs ih => rw [State.pokeList, ih, State.poke_dt]

@[simp] theorem State.pokeList_st (s : State) (a : Nat) (bs : List Byte) : (s.pokeList a bs).st = s.st := by
  induction bs generalizing s a with
  | nil => rfl
  | cons b bs ih => rw [State.pokeList, ih, State.poke_st]

@[simp] theorem State.pokeList_disp (s : State) (a : Nat) (bs : List Byte) : (s.pokeList a bs).disp = s.disp := by
  induction bs generalizing s a with
  | nil => rfl
  | cons b bs ih => rw [State.pokeList, ih, State.poke_disp]

@[simp] theorem State.pokeList_draw (s : State) (a : Nat) (bs : List Byte) : (s.pokeList a bs).draw = s.draw := by
  induction bs generalizing s a with
  | nil => rfl
  | cons b bs ih => rw [State.pokeList, ih, State.poke_draw]

@[simp] theorem State.pokeList_keys (s : State) (a : Nat) (bs : List Byte) : (s.pokeList a bs).keys = s.keys := by
  induction bs generalizing s a with
  | nil => rfl
  | cons b bs ih => rw [State.pokeList, ih, State.poke_keys]

@[simp] theorem State.pokeList_draws (s : State) (a : Nat) (bs : List Byte) : (s.pokeList a bs).draws = s.draws := by
  induction bs generalizing s a with
  | nil => rfl
  | cons b bs ih => rw [State.pokeList, ih, State.poke_draws]

/-! ### Reading a register after an update -/

/-- A register written holds the value; every other keeps its own. -/
@[simp] theorem State.getV_setV (s : State) (x y : Reg) (b : Byte) :
    (s.setV x b).getV y = if y = x then b else s.getV y := by
  simp only [State.getV, State.setV, Fin.getElem_fin, Vector.getElem_set, Fin.ext_iff, eq_comm]

theorem State.getV_setV_same (s : State) (x : Reg) (b : Byte) : (s.setV x b).getV x = b := by simp

theorem State.getV_setV_other (s : State) {x y : Reg} (b : Byte) (h : y ≠ x) : (s.setV x b).getV y = s.getV y := by
  simp [h]

/-- The flag write is the last one (R180). -/
@[simp] theorem State.getV_setFlag (s : State) (f : Bool) (y : Reg) :
    (s.setFlag f).getV y = if y = 15 then flagByte f else s.getV y := State.getV_setV s 15 y (flagByte f)

@[simp] theorem State.getV_setResultAndFlag (s : State) (x : Reg) (r : Byte) (f : Bool) (y : Reg) :
    (s.setResultAndFlag x r f).getV y = if y = 15 then flagByte f else if y = x then r else s.getV y := by
  simp [State.setResultAndFlag]

@[simp] theorem State.getV_loadLowRegs (s : State) (base : Nat) (x y : Reg) :
    (s.loadLowRegs base x).getV y = if y.val ≤ x.val then s.peek (base + y.val) else s.getV y := by
  simp [State.getV, State.loadLowRegs]

@[simp] theorem State.getV_setI (s : State) (w : Word) (y : Reg) : (s.setI w).getV y = s.getV y := by
  simp [State.getV]
@[simp] theorem State.getV_setPc (s : State) (w : Word) (y : Reg) : (s.setPc w).getV y = s.getV y := by
  simp [State.getV]
@[simp] theorem State.getV_advance (s : State) (y : Reg) : (s.advance).getV y = s.getV y := by
  simp [State.getV]
@[simp] theorem State.getV_setDT (s : State) (b : Byte) (y : Reg) : (s.setDT b).getV y = s.getV y := by
  simp [State.getV]
@[simp] theorem State.getV_setST (s : State) (b : Byte) (y : Reg) : (s.setST b).getV y = s.getV y := by
  simp [State.getV]
@[simp] theorem State.getV_nextDraw (s : State) (y : Reg) : (s.nextDraw).getV y = s.getV y := by
  simp [State.getV]
@[simp] theorem State.getV_poke (s : State) (a : Nat) (b : Byte) (y : Reg) : (s.poke a b).getV y = s.getV y := by
  simp [State.getV]
@[simp] theorem State.getV_setDisplay (s : State) (d : Display) (y : Reg) : (s.setDisplay d).getV y = s.getV y := by
  simp [State.getV]
@[simp] theorem State.getV_skipIf (s : State) (c : Bool) (y : Reg) : (s.skipIf c).getV y = s.getV y := by
  simp [State.getV]
@[simp] theorem State.getV_pokeList (s : State) (a : Nat) (bs : List Byte) (y : Reg) : (s.pokeList a bs).getV y = s.getV y := by
  simp [State.getV]

/-! ### Reading memory after an update that stores nothing -/

@[simp] theorem State.peek_setV (s : State) (x : Reg) (b : Byte) (addr : Nat) : (s.setV x b).peek addr = s.peek addr := by
  simp [State.peek]
@[simp] theorem State.peek_setI (s : State) (w : Word) (addr : Nat) : (s.setI w).peek addr = s.peek addr := by
  simp [State.peek]
@[simp] theorem State.peek_setPc (s : State) (w : Word) (addr : Nat) : (s.setPc w).peek addr = s.peek addr := by
  simp [State.peek]
@[simp] theorem State.peek_advance (s : State) (addr : Nat) : (s.advance).peek addr = s.peek addr := by
  simp [State.peek]
@[simp] theorem State.peek_setDT (s : State) (b : Byte) (addr : Nat) : (s.setDT b).peek addr = s.peek addr := by
  simp [State.peek]
@[simp] theorem State.peek_setST (s : State) (b : Byte) (addr : Nat) : (s.setST b).peek addr = s.peek addr := by
  simp [State.peek]
@[simp] theorem State.peek_nextDraw (s : State) (addr : Nat) : (s.nextDraw).peek addr = s.peek addr := by
  simp [State.peek]
@[simp] theorem State.peek_setDisplay (s : State) (d : Display) (addr : Nat) : (s.setDisplay d).peek addr = s.peek addr := by
  simp [State.peek]
@[simp] theorem State.peek_setFlag (s : State) (f : Bool) (addr : Nat) : (s.setFlag f).peek addr = s.peek addr := by
  simp [State.peek]
@[simp] theorem State.peek_setResultAndFlag (s : State) (x : Reg) (r : Byte) (f : Bool) (addr : Nat) : (s.setResultAndFlag x r f).peek addr = s.peek addr := by
  simp [State.peek]
@[simp] theorem State.peek_loadLowRegs (s : State) (base : Nat) (x : Reg) (addr : Nat) : (s.loadLowRegs base x).peek addr = s.peek addr := by
  simp [State.peek]
@[simp] theorem State.peek_skipIf (s : State) (c : Bool) (addr : Nat) : (s.skipIf c).peek addr = s.peek addr := by
  simp [State.peek]

/-! ### The call stack -/

/-- Everything a push can do (R26): it needs a free slot, writes `STACK[SP]` and counts it. -/
theorem State.push_cases (s : State) (w : Word) :
    (s.sp.val = 16 ∧ s.push w = none) ∨
    (∃ h : s.sp.val < 16,
      s.push w = some { s with stack := s.stack.set s.sp.val w, sp := ⟨s.sp.val + 1, by omega⟩ }) := by
  unfold State.push
  by_cases h : s.sp.val < 16
  · exact .inr ⟨h, by simp [h]⟩
  · exact .inl ⟨by omega, by simp [h]⟩

/-- Everything a pop can do (R26): it needs a held address, reads it and leaves the slot. -/
theorem State.pop_cases (s : State) :
    (s.sp.val = 0 ∧ s.pop = none) ∨
    (∃ h : 0 < s.sp.val,
      s.pop = some (s.stack[s.sp.val - 1], { s with sp := ⟨s.sp.val - 1, by omega⟩ })) := by
  unfold State.pop
  by_cases h : 0 < s.sp.val
  · exact .inr ⟨h, by simp [h]⟩
  · exact .inl ⟨by omega, by simp [h]⟩

end Sys2Proof.Machine
end

