-- ==== Sys2Proof/Laws/Display.lean ====
section
/-! SUPPORT. The display: a pixel after a write, and what drawing a list of pixels does. -/

namespace Sys2Proof.Machine

/-- A pixel written holds the value; every other keeps its own (R30). -/
theorem Display.pixel_setPixel (d : Display) (k k' : PixelIndex) (b : Bool) :
    (d.setPixel k b).pixel k' = if k' = k then b else d.pixel k' := by
  unfold Display.pixel Display.setPixel
  by_cases hrow : k.val / 64 = k'.val / 64
  · simp only [hrow, Vector.getElem_set_self, Vector.getElem_set]
    by_cases hcol : k.val % 64 = k'.val % 64
    · rw [if_pos hcol, if_pos (Fin.ext (by omega))]
    · rw [if_neg hcol, if_neg (fun h => hcol (by rw [h]))]
  · rw [if_neg (fun h => hrow (by rw [h]))]
    simp only [Vector.getElem_set, hrow, if_false]

@[simp] theorem Display.pixel_blank (k : PixelIndex) : Display.blank.pixel k = false := by
  simp [Display.pixel, Display.blank]

/-- Two displays with the same pixels are equal. -/
theorem Display.ext_pixel {d d' : Display} (h : ∀ k, d.pixel k = d'.pixel k) : d = d' := by
  apply Vector.ext
  intro y hy
  apply Vector.ext
  intro x hx
  have := h ⟨y * 64 + x, by omega⟩
  simpa [Display.pixel, show (y * 64 + x) / 64 = y by omega, show (y * 64 + x) % 64 = x by omega] using this

/-- Drawing distinct pixels flips exactly those (R201). -/
theorem foldl_flipPixel_pixel (ks : List PixelIndex) (hn : ks.Nodup) (acc : Display × Bool) (k : PixelIndex) :
    (ks.foldl flipPixel acc).1.pixel k = if k ∈ ks then !acc.1.pixel k else acc.1.pixel k := by
  induction ks generalizing acc with
  | nil => simp
  | cons a ks ih =>
    rw [List.nodup_cons] at hn
    rw [List.foldl_cons, ih hn.2]
    simp only [flipPixel, Display.pixel_setPixel, List.mem_cons]
    by_cases h : k = a
    · subst h
      simp [hn.1]
    · simp [h]

/-- The collision bit after drawing distinct pixels: some pixel drawn was set before (R201). -/
theorem foldl_flipPixel_collision (ks : List PixelIndex) (hn : ks.Nodup) (acc : Display × Bool) :
    (ks.foldl flipPixel acc).2 = (acc.2 || ks.any fun k => acc.1.pixel k) := by
  induction ks generalizing acc with
  | nil => simp
  | cons a ks ih =>
    rw [List.nodup_cons] at hn
    rw [List.foldl_cons, ih hn.2, List.any_cons]
    simp only [flipPixel, Bool.or_assoc]
    congr 2
    rw [Bool.eq_iff_iff, List.any_eq_true, List.any_eq_true]
    constructor
    · rintro ⟨x, hx, hp⟩
      rw [Display.pixel_setPixel, if_neg (by rintro rfl; exact hn.1 hx)] at hp
      exact ⟨x, hx, hp⟩
    · rintro ⟨x, hx, hp⟩
      refine ⟨x, hx, ?_⟩
      rw [Display.pixel_setPixel, if_neg (by rintro rfl; exact hn.1 hx)]
      exact hp

/-! ## Sprites (R202, R203) -/

/-- The pixel of a target: itself when on the screen, under `wrap` its residues (R202). -/
theorem targetPixel_eq_some {edge : DrawEdge} {x y : Nat} {k : PixelIndex} (hx : x < 128) (hy : y < 64) :
    targetPixel edge x y = some k ↔
      match edge with
      | .clip => k.val % 64 = x ∧ k.val / 64 = y
      | .wrap => k.val % 64 = x % 64 ∧ k.val / 64 = y % 32 := by
  cases edge <;> simp only [targetPixel] <;> split <;>
    simp only [Option.some.injEq, Fin.ext_iff, reduceCtorEq, false_iff] <;> omega

/-- The targets of a row byte: one for every set bit, bit `7 - c` at column `c` (R203). -/
theorem mem_rowTargets {edge : DrawEdge} {x0 y : Nat} {b : Byte} {k : PixelIndex} :
    k ∈ rowTargets edge x0 y b ↔ ∃ c < 8, b.getLsbD (7 - c) = true ∧ targetPixel edge (x0 + c) y = some k := by
  simp [rowTargets]

/-- The targets of a sprite: those of its row bytes, row `r` at `y + r` (R203). -/
theorem mem_spriteTargets {edge : DrawEdge} {x0 y : Nat} {bs : List Byte} {k : PixelIndex} :
    k ∈ spriteTargets edge x0 y bs ↔ ∃ r, ∃ h : r < bs.length, k ∈ rowTargets edge x0 (y + r) bs[r] := by
  induction bs generalizing y with
  | nil => simp [spriteTargets]
  | cons b bs ih =>
    simp only [spriteTargets, List.mem_append, ih]
    constructor
    · rintro (h | ⟨r, h, h'⟩)
      · exact ⟨0, Nat.zero_lt_succ _, h⟩
      · exact ⟨r + 1, Nat.succ_lt_succ h, by rwa [show y + (r + 1) = y + 1 + r by omega]⟩
    · rintro ⟨_ | r, h, h'⟩
      · exact .inl h'
      · exact .inr ⟨r, Nat.lt_of_succ_lt_succ h, by rwa [show y + 1 + r = y + (r + 1) by omega]⟩

/-- A row byte targets no pixel twice. -/
theorem rowTargets_nodup (edge : DrawEdge) {x0 y : Nat} (b : Byte) (hx : x0 < 64) (hy : y < 64) :
    (rowTargets edge x0 y b).Nodup := by
  have hstep : ∀ n ≤ 8, ((List.range n).filterMap fun c =>
      if b.getLsbD (7 - c) then targetPixel edge (x0 + c) y else none).Nodup := by
    intro n hn
    induction n with
    | zero => exact List.nodup_nil
    | succ n ih =>
      rw [List.range_succ, List.filterMap_append, List.nodup_append]
      refine ⟨ih (by omega), ?_, ?_⟩
      · rw [List.filterMap_cons]
        split <;> simp
      · rintro k hk k' hk' rfl
        simp only [List.mem_filterMap, List.mem_range, Option.ite_none_right_eq_some, List.mem_singleton] at hk hk'
        obtain ⟨c, hc, -, h1⟩ := hk
        obtain ⟨c', rfl, -, h2⟩ := hk'
        rw [targetPixel_eq_some (by omega) hy] at h1 h2
        cases edge <;> simp only at h1 h2 <;> omega
  exact hstep 8 (Nat.le_refl 8)

/-- A sprite from an origin on the screen targets no pixel twice (R202: at most 8 columns and 15 rows). -/
theorem spriteTargets_nodup (edge : DrawEdge) {x0 y : Nat} (bs : List Byte) (hx : x0 < 64)
    (hy : y + bs.length < 64) (hl : bs.length ≤ 32) : (spriteTargets edge x0 y bs).Nodup := by
  induction bs generalizing y with
  | nil => exact List.nodup_nil
  | cons b bs ih =>
    rw [List.length_cons] at hy hl
    rw [spriteTargets, List.nodup_append]
    refine ⟨rowTargets_nodup edge b hx (by omega), ih (by omega) (by omega), ?_⟩
    rintro k hk k' hk' rfl
    obtain ⟨r, hr, hk'⟩ := mem_spriteTargets.mp hk'
    obtain ⟨c, hc, -, h1⟩ := mem_rowTargets.mp hk
    obtain ⟨c', hc', -, h2⟩ := mem_rowTargets.mp hk'
    rw [targetPixel_eq_some (by omega) (by omega)] at h1 h2
    cases edge <;> simp only at h1 h2 <;> omega

theorem State.drwTargets_nodup (s : State) (x y : Reg) (n : Fin 16) : (s.drwTargets x y n).Nodup := by
  have hy : originY (s.getV y) < 32 := Nat.mod_lt _ (by decide)
  have hl : (s.peekList s.dataBase n.val).length = n.val := by simp [State.peekList]
  exact spriteTargets_nodup _ _ (Nat.mod_lt _ (by decide)) (by omega) (by omega)

/-- A `DXYN` flips exactly its targets (R201). -/
theorem State.drwResult_pixel (s : State) (x y : Reg) (n : Fin 16) (k : PixelIndex) :
    (s.drwResult x y n).1.pixel k = if k ∈ s.drwTargets x y n then !s.disp.pixel k else s.disp.pixel k :=
  foldl_flipPixel_pixel _ (s.drwTargets_nodup x y n) (s.disp, false) k

/-- A `DXYN` collides exactly when one of its targets was set (R201). -/
theorem State.drwResult_collision (s : State) (x y : Reg) (n : Fin 16) :
    (s.drwResult x y n).2 = true ↔ ∃ k, k ∈ s.drwTargets x y n ∧ s.disp.pixel k = true := by
  rw [State.drwResult, drawPixels, foldl_flipPixel_collision _ (s.drwTargets_nodup x y n) (s.disp, false)]
  simp

end Sys2Proof.Machine
end

