-- ==== Sys2Proof/Laws/Memory.lean ====
section
/-! SUPPORT. Memory: a read after a write, and the canonical form kept by every operation. -/

namespace Sys2Proof.Machine

/-! ## Reads and writes -/

theorem Memory.read_nil (cfg : Config) (a : Nat) : Memory.read cfg [] a = unlistedByte cfg a := rfl

theorem Memory.read_cons (cfg : Config) (k : Nat) (v : Byte) (m : Memory) (a : Nat) :
    Memory.read cfg ((k, v) :: m) a = if a = k then v else Memory.read cfg m a := by
  rw [Memory.read, Memory.lookup]
  split <;> rfl

/-- A cell listed from `lo` up says nothing of an address below `lo`. -/
theorem Memory.lookup_below {cfg : Config} {lo a : Nat} {m : Memory} (h : Memory.wfFrom cfg lo m) (ha : a < lo) :
    Memory.lookup m a = none := by
  induction m generalizing lo with
  | nil => rfl
  | cons c m ih =>
    obtain ⟨k, v⟩ := c
    simp only [Memory.wfFrom, Bool.and_eq_true, decide_eq_true_eq] at h
    rw [Memory.lookup, if_neg (by omega), ih h.2 (by omega)]

theorem Memory.read_below {cfg : Config} {lo a : Nat} {m : Memory} (h : Memory.wfFrom cfg lo m) (ha : a < lo) :
    Memory.read cfg m a = unlistedByte cfg a := by
  rw [Memory.read, Memory.lookup_below h ha, Option.getD_none]

theorem Memory.read_cell_append (cfg : Config) (a : Nat) (b : Byte) (m : Memory) (a' : Nat)
    (h : Memory.read cfg m a = unlistedByte cfg a) :
    Memory.read cfg (Memory.cell cfg a b ++ m) a' = if a' = a then b else Memory.read cfg m a' := by
  unfold Memory.cell
  by_cases hb : b = unlistedByte cfg a
  · rw [if_pos hb]
    split
    · rename_i e
      rw [List.nil_append, e, h, hb]
    · rfl
  · rw [if_neg hb, List.singleton_append, Memory.read_cons]

theorem Memory.read_write_from {cfg : Config} {lo : Nat} {m : Memory} (h : Memory.wfFrom cfg lo m) (a : Nat) (b : Byte)
    (a' : Nat) : Memory.read cfg (Memory.write cfg m a b) a' = if a' = a then b else Memory.read cfg m a' := by
  induction m generalizing lo with
  | nil =>
    have := Memory.read_cell_append cfg a b [] a' rfl
    rwa [List.append_nil] at this
  | cons c m ih =>
    obtain ⟨k, v⟩ := c
    have hk := h
    simp only [Memory.wfFrom, Bool.and_eq_true, decide_eq_true_eq] at hk
    unfold Memory.write
    by_cases h1 : a < k
    · rw [if_pos h1]
      refine Memory.read_cell_append cfg a b _ a' ?_
      rw [Memory.read_cons, if_neg (by omega), Memory.read_below hk.2 (by omega)]
    · rw [if_neg h1]
      by_cases h2 : a = k
      · subst h2
        rw [if_pos rfl, Memory.read_cell_append cfg a b m a' (Memory.read_below hk.2 (by omega)), Memory.read_cons]
        split <;> rfl
      · rw [if_neg h2, Memory.read_cons, ih hk.2, Memory.read_cons]
        by_cases h3 : a' = k
        · rw [if_pos h3, if_neg (by omega), if_pos h3]
        · rw [if_neg h3, if_neg h3]

/-- A read after a write: the byte written at its address, every other byte as before. -/
theorem Memory.read_write {cfg : Config} {m : Memory} (h : Memory.wf cfg m) (a : Nat) (b : Byte) (a' : Nat) :
    Memory.read cfg (Memory.write cfg m a b) a' = if a' = a then b else Memory.read cfg m a' :=
  Memory.read_write_from h a b a'

/-! ## The canonical form -/

theorem Memory.wfFrom_weaken {cfg : Config} {lo lo' : Nat} {m : Memory} (h : Memory.wfFrom cfg lo m) (hl : lo' ≤ lo) :
    Memory.wfFrom cfg lo' m := by
  cases m with
  | nil => rfl
  | cons c m =>
    simp only [Memory.wfFrom, Bool.and_eq_true, decide_eq_true_eq] at h ⊢
    exact ⟨⟨⟨by omega, h.1.1.2⟩, h.1.2⟩, h.2⟩

theorem Memory.wfFrom_cell_append {cfg : Config} {lo a : Nat} {b : Byte} {m : Memory} (hl : lo ≤ a) (ha : a < memSize)
    (h : Memory.wfFrom cfg (a + 1) m) : Memory.wfFrom cfg lo (Memory.cell cfg a b ++ m) := by
  unfold Memory.cell
  by_cases hb : b = unlistedByte cfg a
  · rw [if_pos hb]
    exact Memory.wfFrom_weaken h (by omega)
  · rw [if_neg hb]
    simp [Memory.wfFrom, hl, ha, hb, h]

theorem Memory.wfFrom_write {cfg : Config} {lo : Nat} {m : Memory} (h : Memory.wfFrom cfg lo m) {a : Nat} (hl : lo ≤ a)
    (ha : a < memSize) (b : Byte) : Memory.wfFrom cfg lo (Memory.write cfg m a b) := by
  induction m generalizing lo with
  | nil =>
    have := Memory.wfFrom_cell_append (cfg := cfg) (b := b) (m := []) hl ha rfl
    rwa [List.append_nil] at this
  | cons c m ih =>
    obtain ⟨k, v⟩ := c
    have hk := h
    simp only [Memory.wfFrom, Bool.and_eq_true, decide_eq_true_eq] at hk
    unfold Memory.write
    by_cases h1 : a < k
    · rw [if_pos h1]
      refine Memory.wfFrom_cell_append hl ha ?_
      simp only [Memory.wfFrom, Bool.and_eq_true, decide_eq_true_eq]
      exact ⟨⟨⟨by omega, hk.1.1.2⟩, hk.1.2⟩, hk.2⟩
    · rw [if_neg h1]
      by_cases h2 : a = k
      · rw [if_pos h2]
        subst h2
        exact Memory.wfFrom_cell_append hl ha hk.2
      · rw [if_neg h2]
        simp only [Memory.wfFrom, Bool.and_eq_true, decide_eq_true_eq]
        exact ⟨hk.1, ih hk.2 (by omega)⟩

/-- Storing a byte inside memory keeps the canonical form. -/
theorem Memory.wf_write {cfg : Config} {m : Memory} (h : Memory.wf cfg m) {a : Nat} (ha : a < memSize) (b : Byte) :
    Memory.wf cfg (Memory.write cfg m a b) := Memory.wfFrom_write h (Nat.zero_le a) ha b

/-- Memory after reset lists nothing, in the canonical form. -/
theorem Memory.wf_reset (cfg : Config) : Memory.wf cfg (State.resetWith cfg).mem := rfl

/-- Two canonical memories that read alike are equal. -/
theorem Memory.ext_from {cfg : Config} {lo : Nat} {m m' : Memory} (h : Memory.wfFrom cfg lo m)
    (h' : Memory.wfFrom cfg lo m') (hr : ∀ a, Memory.read cfg m a = Memory.read cfg m' a) : m = m' := by
  induction m generalizing lo m' with
  | nil =>
    cases m' with
    | nil => rfl
    | cons c' t' =>
      obtain ⟨k', v'⟩ := c'
      have h2 := h'
      simp only [Memory.wfFrom, Bool.and_eq_true, decide_eq_true_eq, bne_iff_ne] at h2
      have := hr k'
      rw [Memory.read_nil, Memory.read_cons, if_pos rfl] at this
      exact absurd this.symm h2.1.2
  | cons c t ih =>
    obtain ⟨k, v⟩ := c
    have h1 := h
    simp only [Memory.wfFrom, Bool.and_eq_true, decide_eq_true_eq, bne_iff_ne] at h1
    cases m' with
    | nil =>
      have := hr k
      rw [Memory.read_nil, Memory.read_cons, if_pos rfl] at this
      exact absurd this h1.1.2
    | cons c' t' =>
      obtain ⟨k', v'⟩ := c'
      have h2 := h'
      simp only [Memory.wfFrom, Bool.and_eq_true, decide_eq_true_eq, bne_iff_ne] at h2
      have hkk : k = k' := by
        rcases Nat.lt_trichotomy k k' with hlt | heq | hgt
        · have := hr k
          rw [Memory.read_cons, if_pos rfl, Memory.read_cons, if_neg (by omega),
            Memory.read_below h2.2 (by omega)] at this
          exact absurd this h1.1.2
        · exact heq
        · have := hr k'
          rw [Memory.read_cons, if_neg (by omega), Memory.read_below h1.2 (by omega), Memory.read_cons,
            if_pos rfl] at this
          exact absurd this.symm h2.1.2
      subst hkk
      have hv : v = v' := by
        have := hr k
        rwa [Memory.read_cons, if_pos rfl, Memory.read_cons, if_pos rfl] at this
      subst hv
      rw [ih h1.2 h2.2 fun a => ?_]
      by_cases ha : a = k
      · subst ha
        rw [Memory.read_below h1.2 (by omega), Memory.read_below h2.2 (by omega)]
      · have := hr a
        rwa [Memory.read_cons, if_neg ha, Memory.read_cons, if_neg ha] at this

/-! ## The state's memory -/

theorem State.peek_poke {s : State} (h : Memory.wf s.cfg s.mem) (a : Nat) (b : Byte) (a' : Nat) :
    (s.poke a b).peek a' = if a' = a then b else s.peek a' := Memory.read_write h a b a'

theorem State.wf_poke {s : State} (h : Memory.wf s.cfg s.mem) {a : Nat} (ha : a < memSize) (b : Byte) :
    Memory.wf (s.poke a b).cfg (s.poke a b).mem := Memory.wf_write h ha b

/-- Storing consecutive bytes inside memory keeps the canonical form. -/
theorem State.wf_pokeList {s : State} (h : Memory.wf s.cfg s.mem) {a : Nat} {bs : List Byte}
    (ha : a + bs.length ≤ memSize) : Memory.wf (s.pokeList a bs).cfg (s.pokeList a bs).mem := by
  induction bs generalizing s a with
  | nil => exact h
  | cons b bs ih =>
    rw [List.length_cons] at ha
    exact ih (State.wf_poke h (by omega) b) (by omega)

/-- A read after storing consecutive bytes: the bytes stored in ascending order, every other byte as before. -/
theorem State.peek_pokeList {s : State} (h : Memory.wf s.cfg s.mem) {a : Nat} {bs : List Byte}
    (ha : a + bs.length ≤ memSize) (a' : Nat) :
    (s.pokeList a bs).peek a' =
      if a ≤ a' ∧ a' < a + bs.length then bs.getD (a' - a) 0 else s.peek a' := by
  induction bs generalizing s a with
  | nil =>
    rw [if_neg (by simp only [List.length_nil]; omega)]
    rfl
  | cons b bs ih =>
    rw [List.length_cons] at ha ⊢
    rw [State.pokeList, ih (State.wf_poke h (by omega) b) (by omega), State.peek_poke h]
    by_cases h1 : a' = a
    · subst h1
      rw [if_neg (by omega), if_pos rfl, if_pos (by omega), Nat.sub_self]
      rfl
    · by_cases h2 : a + 1 ≤ a' ∧ a' < a + 1 + bs.length
      · rw [if_pos h2, if_pos (by omega), show a' - a = (a' - (a + 1)) + 1 by omega]
        rfl
      · rw [if_neg h2, if_neg h1, if_neg (by omega)]

end Sys2Proof.Machine
end

