-- ==== Sys2Proof/Laws/Ops.lean ====
section
/-! SUPPORT. The shared operations of the step: address checks, fetch, unknown opcodes, the step cycle. -/

namespace Sys2Proof.Machine

/-- All addresses are in range exactly when none offends (R67). -/
theorem firstOutOfRange_eq_none {base n : Nat} : firstOutOfRange base n = none ↔ ∀ k < n, base + k ≤ 0xFFF := by
  simp [firstOutOfRange]

/-- The first offending address is above 0xFFF and every address before it is in range (R66, R254). -/
theorem firstOutOfRange_eq_some {base n a : Nat} :
    firstOutOfRange base n = some a ↔
      ∃ k < n, a = base + k ∧ 0xFFF < a ∧ ∀ j < k, base + j ≤ 0xFFF := by
  induction n generalizing base with
  | zero => simp [firstOutOfRange]
  | succ n ih =>
    have hstep : firstOutOfRange base (n + 1) = if 0xFFF < base then some base else firstOutOfRange (base + 1) n := by
      unfold firstOutOfRange
      rw [List.range_succ_eq_map, List.map_cons, List.map_map, List.find?_cons]
      by_cases h : 0xFFF < base
      · simp [h]
      · simp only [Nat.add_zero, h, decide_false, if_false]
        congr 2
        funext k
        simp only [Function.comp, Nat.succ_eq_add_one]
        omega
    rw [hstep]
    by_cases h : 0xFFF < base
    · rw [if_pos h]
      constructor
      · rintro ⟨⟩
        exact ⟨0, by omega, by omega, h, by omega⟩
      · rintro ⟨k, hk, rfl, -, hj⟩
        rcases Nat.eq_zero_or_pos k with rfl | hp
        · rfl
        · have := hj 0 hp
          omega
    · rw [if_neg h, ih]
      constructor
      · rintro ⟨k, hk, rfl, ha, hj⟩
        refine ⟨k + 1, by omega, by omega, ha, fun j hjk => ?_⟩
        rcases Nat.eq_zero_or_pos j with rfl | hp
        · omega
        · have := hj (j - 1) (by omega)
          omega
      · rintro ⟨k, hk, rfl, ha, hj⟩
        rcases Nat.eq_zero_or_pos k with rfl | hp
        · omega
        · refine ⟨k - 1, by omega, by omega, ha, fun j hjk => ?_⟩
          have := hj (j + 1) (by omega)
          omega

/-- Everything an address check can do: go on with every address in range, or raise the first offending one. -/
theorem checked_cases (base n : Nat) (k : Result) :
    ((∀ j < n, base + j ≤ 0xFFF) ∧ checked base n k = k) ∨
    (∃ a, firstOutOfRange base n = some a ∧ checked base n k = raise (.addressOutOfRange a)) := by
  unfold checked
  cases h : firstOutOfRange base n with
  | none => exact .inl ⟨firstOutOfRange_eq_none.mp h, rfl⟩
  | some a => exact .inr ⟨a, rfl, rfl⟩

/-- With every address in range the instruction goes on. -/
theorem checked_of_inRange {base n : Nat} {k : Result} (h : ∀ j < n, base + j ≤ 0xFFF) : checked base n k = k := by
  rw [checked, firstOutOfRange_eq_none.mpr h]

/-- A check that ends in a next state found every address in range. -/
theorem checked_eq_next {base n : Nat} {k : Result} {t : State} (h : checked base n k = .next t) :
    (∀ j < n, base + j ≤ 0xFFF) ∧ k = .next t := by
  rcases checked_cases base n k with ⟨hr, hk⟩ | ⟨a, -, hk⟩
  · exact ⟨hr, hk ▸ h⟩
  · rw [hk] at h
    cases h

/-- Everything a fetch can do (R122 line 1, R254). -/
theorem State.fetch_cases (s : State) :
    (s.pc.toNat ≤ 0xFFE ∧ s.fetch = .ok (s.peek s.pc.toNat ++ s.peek (s.pc.toNat + 1))) ∨
    (s.pc.toNat = 0xFFF ∧ s.fetch = .error (.addressOutOfRange 0x1000)) ∨
    (0xFFF < s.pc.toNat ∧ s.fetch = .error (.addressOutOfRange s.pc.toNat)) := by
  unfold State.fetch
  rcases Nat.lt_trichotomy s.pc.toNat 0xFFF with h | h | h
  · have : firstOutOfRange s.pc.toNat 2 = none := firstOutOfRange_eq_none.mpr fun k hk => by omega
    rw [this]
    exact .inl ⟨by omega, rfl⟩
  · have : firstOutOfRange s.pc.toNat 2 = some 0x1000 :=
      firstOutOfRange_eq_some.mpr ⟨1, by omega, by omega, by omega, fun j hj => by omega⟩
    rw [this]
    exact .inr (.inl ⟨h, rfl⟩)
  · have : firstOutOfRange s.pc.toNat 2 = some s.pc.toNat :=
      firstOutOfRange_eq_some.mpr ⟨0, by omega, by omega, by omega, fun j hj => by omega⟩
    rw [this]
    exact .inr (.inr ⟨h, rfl⟩)

/-- Everything a step can do (R122): fail at fetch, pass over or report an undefined opcode, or run the decoded
instruction. -/
theorem cycle_cases (run : Instr → State → Result) (s : State) :
    (∃ f, s.fetch = .error f ∧ cycle run s = .fault f) ∨
    (∃ op, s.fetch = .ok op ∧ decode op = none ∧ s.cfg.unknownPolicy = .halt ∧
      cycle run s = .fault (.unknownOpcode op)) ∨
    (∃ op, s.fetch = .ok op ∧ decode op = none ∧ s.cfg.unknownPolicy = .skip ∧ cycle run s = .next s.advance) ∨
    (∃ op i, s.fetch = .ok op ∧ decode op = some i ∧ cycle run s = run i s) := by
  unfold cycle
  cases hf : s.fetch with
  | error f => exact .inl ⟨f, rfl, rfl⟩
  | ok op =>
    refine .inr ?_
    cases hd : decode op with
    | some i => exact .inr (.inr ⟨op, i, rfl, hd, by simp [hd]⟩)
    | none =>
      cases hp : s.cfg.unknownPolicy with
      | halt => exact .inl ⟨op, rfl, hd, rfl, by simp [hd, unknownOpcode, hp, raise]⟩
      | skip => exact .inr (.inl ⟨op, rfl, hd, rfl, by simp [hd, unknownOpcode, hp]⟩)

/-- The lowest pressed key: pressed, and every lower key released (R221). -/
theorem State.lowestKey_eq_some {s : State} {k : Key} :
    s.lowestKey = some k ↔ s.keyPressed k = true ∧ ∀ j < k, s.keyPressed j = false := by
  unfold State.lowestKey
  rw [List.find?_eq_some_iff_getElem]
  constructor
  · rintro ⟨hk, i, hi, he, hj⟩
    rw [List.length_finRange] at hi
    rw [List.getElem_finRange] at he
    refine ⟨hk, fun j hjk => ?_⟩
    have hji : j.val < i := by
      have : k.val = i := by rw [← he]; rfl
      exact this ▸ hjk
    have := hj j.val hji
    rw [List.getElem_finRange] at this
    simpa using this
  · rintro ⟨hk, hj⟩
    refine ⟨hk, k.val, by simp, by simp, fun j hjk => ?_⟩
    rw [List.getElem_finRange]
    simpa using hj ⟨j, by omega⟩ (by simpa [Fin.lt_def] using hjk)

/-- No key is pressed exactly when there is no lowest one (R221). -/
theorem State.lowestKey_eq_none {s : State} : s.lowestKey = none ↔ ∀ k, s.keyPressed k = false := by
  simp [State.lowestKey]

end Sys2Proof.Machine
end

