-- ==== Sys2Proof/Laws/PerInstr.lean ====
section
/-! SUPPORT. Facts about every instruction, one lemma per constructor. Family `TableRow`: the encoder's word is selected
by the instruction's own row of the opcode map, and the instruction is well-formed (spec 30_encoding.md R95). -/

namespace Sys2Proof.Laws.TableRow

/-- The word of `i` is selected by the row of `i`, which stands in the opcode map (R95). -/
def Statement (i : Instr) : Prop := i.row.selects (encode i) = true ∧ i.wellFormed = true

theorem selects_of {mask value op w : Word} (h : op &&& mask = w) (e : w = value) :
    OpcodeRow.selects ⟨mask, value⟩ op = true := by
  rw [OpcodeRow.selects, beq_iff_eq, h, e]

/-- Under the mask 0xF000 only the top nibble of format NNN remains. -/
theorem encodeNNN_mask (major : BitVec 4) (nnn : Addr12) : encodeNNN major nnn &&& 0xF000#16 = major ++ 0x000#12 := by
  rw [encodeNNN, show (0xF000#16 : Word) = 0xF#4 ++ 0x000#12 from rfl, BitVec.and_append, BitVec.and_zero,
    show (0xF#4) = BitVec.allOnes 4 from rfl, BitVec.and_allOnes]

/-- Under the mask 0xF000 only the top nibble of format XNN remains. -/
theorem encodeXNN_mask (major : BitVec 4) (x : Reg) (nn : Byte) :
    encodeXNN major x nn &&& 0xF000#16 = major ++ 0x0#4 ++ 0x00#8 := by
  rw [encodeXNN, show (0xF000#16 : Word) = 0xF#4 ++ 0x0#4 ++ 0x00#8 from rfl, BitVec.and_append, BitVec.and_append,
    BitVec.and_zero, BitVec.and_zero, show (0xF#4) = BitVec.allOnes 4 from rfl, BitVec.and_allOnes]

/-- Under the mask 0xF0FF the top nibble and the low byte remain (format XKK). -/
theorem encodeXNN_mask_low (major : BitVec 4) (x : Reg) (nn : Byte) :
    encodeXNN major x nn &&& 0xF0FF#16 = major ++ 0x0#4 ++ nn := by
  rw [encodeXNN, show (0xF0FF#16 : Word) = 0xF#4 ++ 0x0#4 ++ 0xFF#8 from rfl, BitVec.and_append, BitVec.and_append,
    BitVec.and_zero, show (0xF#4) = BitVec.allOnes 4 from rfl, BitVec.and_allOnes,
    show (0xFF#8) = BitVec.allOnes 8 from rfl, BitVec.and_allOnes]

/-- Under the mask 0xF00F the top and the low nibble remain (format XYN with a minor opcode). -/
theorem encodeXYN_mask (major : BitVec 4) (x y : Reg) (n : BitVec 4) :
    encodeXYN major x y n &&& 0xF00F#16 = major ++ 0x0#4 ++ 0x0#4 ++ n := by
  rw [encodeXYN, show (0xF00F#16 : Word) = 0xF#4 ++ 0x0#4 ++ 0x0#4 ++ 0xF#4 from rfl, BitVec.and_append,
    BitVec.and_append, BitVec.and_append, BitVec.and_zero, BitVec.and_zero,
    show (0xF#4) = BitVec.allOnes 4 from rfl, BitVec.and_allOnes, BitVec.and_allOnes]

/-- Under the mask 0xF000 only the top nibble remains (`DXYN`). -/
theorem encodeXYN_mask_major (major : BitVec 4) (x y : Reg) (n : BitVec 4) :
    encodeXYN major x y n &&& 0xF000#16 = major ++ 0x0#4 ++ 0x0#4 ++ 0x0#4 := by
  rw [encodeXYN, show (0xF000#16 : Word) = 0xF#4 ++ 0x0#4 ++ 0x0#4 ++ 0x0#4 from rfl, BitVec.and_append,
    BitVec.and_append, BitVec.and_append, BitVec.and_zero, BitVec.and_zero, BitVec.and_zero,
    show (0xF#4) = BitVec.allOnes 4 from rfl, BitVec.and_allOnes]

theorem cls : Statement .cls := ⟨by decide, by decide⟩
theorem ret : Statement .ret := ⟨by decide, by decide⟩
theorem jp (nnn : Addr12) : Statement (.jp nnn) := ⟨selects_of (encodeNNN_mask _ _) rfl, rfl⟩
theorem call (nnn : Addr12) : Statement (.call nnn) := ⟨selects_of (encodeNNN_mask _ _) rfl, rfl⟩
theorem seImm (x : Reg) (nn : Byte) : Statement (.seImm x nn) := ⟨selects_of (encodeXNN_mask _ _ _) rfl, rfl⟩
theorem sneImm (x : Reg) (nn : Byte) : Statement (.sneImm x nn) := ⟨selects_of (encodeXNN_mask _ _ _) rfl, rfl⟩
theorem seReg (x : Reg) (y : Reg) : Statement (.seReg x y) := ⟨selects_of (encodeXYN_mask _ _ _ _) rfl, rfl⟩
theorem ldImm (x : Reg) (nn : Byte) : Statement (.ldImm x nn) := ⟨selects_of (encodeXNN_mask _ _ _) rfl, rfl⟩
theorem addImm (x : Reg) (nn : Byte) : Statement (.addImm x nn) := ⟨selects_of (encodeXNN_mask _ _ _) rfl, rfl⟩
theorem ldReg (x : Reg) (y : Reg) : Statement (.ldReg x y) := ⟨selects_of (encodeXYN_mask _ _ _ _) rfl, rfl⟩
theorem orReg (x : Reg) (y : Reg) : Statement (.orReg x y) := ⟨selects_of (encodeXYN_mask _ _ _ _) rfl, rfl⟩
theorem andReg (x : Reg) (y : Reg) : Statement (.andReg x y) := ⟨selects_of (encodeXYN_mask _ _ _ _) rfl, rfl⟩
theorem xorReg (x : Reg) (y : Reg) : Statement (.xorReg x y) := ⟨selects_of (encodeXYN_mask _ _ _ _) rfl, rfl⟩
theorem addReg (x : Reg) (y : Reg) : Statement (.addReg x y) := ⟨selects_of (encodeXYN_mask _ _ _ _) rfl, rfl⟩
theorem subReg (x : Reg) (y : Reg) : Statement (.subReg x y) := ⟨selects_of (encodeXYN_mask _ _ _ _) rfl, rfl⟩
theorem shrReg (x : Reg) (y : Reg) : Statement (.shrReg x y) := ⟨selects_of (encodeXYN_mask _ _ _ _) rfl, rfl⟩
theorem subnReg (x : Reg) (y : Reg) : Statement (.subnReg x y) := ⟨selects_of (encodeXYN_mask _ _ _ _) rfl, rfl⟩
theorem shlReg (x : Reg) (y : Reg) : Statement (.shlReg x y) := ⟨selects_of (encodeXYN_mask _ _ _ _) rfl, rfl⟩
theorem sneReg (x : Reg) (y : Reg) : Statement (.sneReg x y) := ⟨selects_of (encodeXYN_mask _ _ _ _) rfl, rfl⟩
theorem ldI (nnn : Addr12) : Statement (.ldI nnn) := ⟨selects_of (encodeNNN_mask _ _) rfl, rfl⟩
theorem jpV0 (nnn : Addr12) : Statement (.jpV0 nnn) := ⟨selects_of (encodeNNN_mask _ _) rfl, rfl⟩
theorem rnd (x : Reg) (nn : Byte) : Statement (.rnd x nn) := ⟨selects_of (encodeXNN_mask _ _ _) rfl, rfl⟩
theorem drw (x : Reg) (y : Reg) (n : Fin 16) : Statement (.drw x y n) := ⟨selects_of (encodeXYN_mask_major _ _ _ _) rfl, rfl⟩
theorem skp (x : Reg) : Statement (.skp x) := ⟨selects_of (encodeXNN_mask_low _ _ _) rfl, rfl⟩
theorem sknp (x : Reg) : Statement (.sknp x) := ⟨selects_of (encodeXNN_mask_low _ _ _) rfl, rfl⟩
theorem ldVxDt (x : Reg) : Statement (.ldVxDt x) := ⟨selects_of (encodeXNN_mask_low _ _ _) rfl, rfl⟩
theorem ldVxKey (x : Reg) : Statement (.ldVxKey x) := ⟨selects_of (encodeXNN_mask_low _ _ _) rfl, rfl⟩
theorem ldDtVx (x : Reg) : Statement (.ldDtVx x) := ⟨selects_of (encodeXNN_mask_low _ _ _) rfl, rfl⟩
theorem ldStVx (x : Reg) : Statement (.ldStVx x) := ⟨selects_of (encodeXNN_mask_low _ _ _) rfl, rfl⟩
theorem addI (x : Reg) : Statement (.addI x) := ⟨selects_of (encodeXNN_mask_low _ _ _) rfl, rfl⟩
theorem ldFont (x : Reg) : Statement (.ldFont x) := ⟨selects_of (encodeXNN_mask_low _ _ _) rfl, rfl⟩
theorem ldBcd (x : Reg) : Statement (.ldBcd x) := ⟨selects_of (encodeXNN_mask_low _ _ _) rfl, rfl⟩
theorem storeRegs (x : Reg) : Statement (.storeRegs x) := ⟨selects_of (encodeXNN_mask_low _ _ _) rfl, rfl⟩
theorem loadRegs (x : Reg) : Statement (.loadRegs x) := ⟨selects_of (encodeXNN_mask_low _ _ _) rfl, rfl⟩

end Sys2Proof.Laws.TableRow
end

