-- ==== Sys2Proof/Laws/Ports.lean ====
section
/-! SUPPORT. Everything the step port and the load port can answer (spec 40_step_cycle_and_ports.md R121 to R124,
70_reset_and_hazards.md R292). -/

namespace Sys2Proof.Machine

/-- Everything the step port can answer (R121, R124): `Ok` and the next state, or `Err` and the state before. -/
theorem portStep_cases (rnd : Byte) (s : State) :
    (∃ t, stepWith rnd s = .next t ∧ portStep rnd s = (.stepped (stepOutcome s t), t)) ∨
    (∃ f, stepWith rnd s = .fault f ∧ portStep rnd s = (.stepFailed f, s)) ∨
    (∃ r, stepWith rnd s = .refused r ∧ portStep rnd s = (.stepRefused r, s)) := by
  unfold portStep
  cases h : stepWith rnd s with
  | next t => exact .inl ⟨t, rfl, rfl⟩
  | fault f => exact .inr (.inl ⟨f, rfl, rfl⟩)
  | refused r => exact .inr (.inr ⟨r, rfl, rfl⟩)

/-- Everything the load port can answer (R292): the bytes stored from 0x200 up, or `Err` and the state before. -/
theorem portLoad_cases (bytes : List Byte) (s : State) :
    (bytes.length ≤ progMax ∧ transact (.loadProgram bytes) s = (.loaded, s.pokeList 0x200 bytes)) ∨
    (progMax < bytes.length ∧
      transact (.loadProgram bytes) s = (.loadFailed (.programTooLarge bytes.length), s)) := by
  by_cases h : progMax < bytes.length
  · exact .inr ⟨h, by simp [transact, portLoad, h]⟩
  · exact .inl ⟨Nat.le_of_not_lt h, by simp [transact, portLoad, h]⟩

end Sys2Proof.Machine
end

