-- ==== Sys2Proof/Tests/Slice0.lean ====
section
/-! SUPPORT. The model's own tests: words decoded, one small step at a time from the vectors of spec
95_test_vectors.md (each test names its vector), ill-formed words refused, and witnesses for the hypotheses of the
obligations. -/

namespace Sys2Proof.Tests

open Sys2Proof.Machine

/-- The result is a next state with a property. -/
def nextIs (r : Result) (p : State → Bool) : Bool :=
  match r with
  | .next t => p t
  | .fault _ => false
  | .refused _ => false

/-- The result is this error. -/
def faultIs (r : Result) (f : Fault) : Bool :=
  match r with
  | .next _ => false
  | .fault g => g == f
  | .refused _ => false

/-- The state with one pixel set. -/
def withPixel (s : State) (k : PixelIndex) : State := { s with disp := s.disp.setPixel k true }

/-! ## Ill-formed words (R96), one of each undefined family, and the words beside them that are well-formed -/

theorem test_wellFormed_refuses_0NNN : wellFormedWord 0x00E1#16 = false ∧ wellFormedWord 0x0000#16 = false := by decide
theorem test_wellFormed_refuses_5XYN : wellFormedWord 0x5AB1#16 = false ∧ wellFormedWord 0x5AB0#16 = true := by decide
theorem test_wellFormed_refuses_8XYN : wellFormedWord 0x8AB8#16 = false ∧ wellFormedWord 0x8ABE#16 = true := by decide
theorem test_wellFormed_refuses_9XYN : wellFormedWord 0x9AB1#16 = false ∧ wellFormedWord 0x9AB0#16 = true := by decide
theorem test_wellFormed_refuses_EXNN : wellFormedWord 0xE19F#16 = false ∧ wellFormedWord 0xE19E#16 = true := by decide
theorem test_wellFormed_refuses_FXNN : wellFormedWord 0xF175#16 = false ∧ wellFormedWord 0xF165#16 = true := by decide

/-- The decoder refuses the undefined words of the spec's decode table by name (95_test_vectors.md). -/
theorem test_decode_rejects_by_name :
    decodeBytes [0x8A, 0xBF] = .error (.unknownOpcode 0x8ABF#16) ∧ decodeBytes [0x12] = .error .truncated ∧
    decode 0x0123#16 = none ∧ decode 0x5ABF#16 = none ∧ decode 0xE1A0#16 = none ∧ decode 0xF000#16 = none := by decide

/-! ## Decoding: every constructor, its word written out bit by bit from the patterns of R95 -/

/-- `00E0`, `00EE`, `1NNN`, `2NNN`, `BNNN`, their words written out from R95. -/
theorem test_decode_control :
    decode 0b0000000011100000#16 = some .cls ∧
    decode 0b0000000011101110#16 = some .ret ∧
    decode 0b0001101010111100#16 = some (.jp 0xABC) ∧
    decode 0b0010001000001010#16 = some (.call 0x20A) ∧
    decode 0b1011001000010000#16 = some (.jpV0 0x210) := by decide

/-- The six skips (R95). -/
theorem test_decode_skips :
    decode 0b0011000100000100#16 = some (.seImm 1 0x04) ∧
    decode 0b0100101000010000#16 = some (.sneImm 10 0x10) ∧
    decode 0b0101101010110000#16 = some (.seReg 10 11) ∧
    decode 0b1001101010110000#16 = some (.sneReg 10 11) ∧
    decode 0b1110000110011110#16 = some (.skp 1) ∧
    decode 0b1110001110100001#16 = some (.sknp 3) := by decide

/-- `6XNN`, `7XNN`, `ANNN`, `CXNN` (R95). -/
theorem test_decode_immediates :
    decode 0b0110101000101111#16 = some (.ldImm 10 0x2F) ∧
    decode 0b0111000111111111#16 = some (.addImm 1 0xFF) ∧
    decode 0b1010001100000000#16 = some (.ldI 0x300) ∧
    decode 0b1100001100001111#16 = some (.rnd 3 0x0F) := by decide

/-- `8XY0` to `8XYE` (R95). -/
theorem test_decode_alu :
    decode 0b1000101010110000#16 = some (.ldReg 10 11) ∧
    decode 0b1000101010110001#16 = some (.orReg 10 11) ∧
    decode 0b1000101010110010#16 = some (.andReg 10 11) ∧
    decode 0b1000101010110011#16 = some (.xorReg 10 11) ∧
    decode 0b1000101010110100#16 = some (.addReg 10 11) ∧
    decode 0b1000101010110101#16 = some (.subReg 10 11) ∧
    decode 0b1000101010110110#16 = some (.shrReg 10 11) ∧
    decode 0b1000101010110111#16 = some (.subnReg 10 11) ∧
    decode 0b1000101010111110#16 = some (.shlReg 10 11) := by decide

/-- `DXYN` and the `FX` forms (R95). -/
theorem test_decode_draw_timers_index :
    decode 0b1101000100100101#16 = some (.drw 1 2 5) ∧
    decode 0b1111001000000111#16 = some (.ldVxDt 2) ∧
    decode 0b1111111100001010#16 = some (.ldVxKey 15) ∧
    decode 0b1111010000010101#16 = some (.ldDtVx 4) ∧
    decode 0b1111001100011000#16 = some (.ldStVx 3) ∧
    decode 0b1111000100011110#16 = some (.addI 1) ∧
    decode 0b1111011000101001#16 = some (.ldFont 6) ∧
    decode 0b1111011100110011#16 = some (.ldBcd 7) ∧
    decode 0b1111000101010101#16 = some (.storeRegs 1) ∧
    decode 0b1111000101100101#16 = some (.loadRegs 1) := by decide

/-! ## One step each (95_test_vectors.md) -/

/-- T-CLS-1 -/
theorem test_cls_clears :
    nextIs (step ((withPixel { State.reset with draw := false } 66).withFetchWord 16 0x00E0)) (fun t => t.disp.pixel 66 == false && t.draw && t.pc == 0x202) = true := by decide

/-- T-RET-1 -/
theorem test_ret_pops :
    nextIs (step (({ State.reset with sp := 1, stack := State.reset.stack.set 0 0x0206, pc := 0x20C }).withFetchWord 16 0x00EE)) (fun t => t.sp == 0 && t.pc == 0x206 && t.stack[0] == 0x206) = true := by decide

/-- T-RET-2 -/
theorem test_ret_underflow :
    faultIs (step ((State.reset).withFetchWord 16 0x00EE)) .stackUnderflow = true := by decide

/-- T-JP-1 -/
theorem test_jp :
    nextIs (step (({ State.reset with pc := 0x20A }).withFetchWord 16 0x1204)) (fun t => t.pc == 0x204) = true := by decide

/-- T-CALL-2 -/
theorem test_call_pushes :
    nextIs (step (({ State.reset with sp := 15, pc := 0x2F0 }).withFetchWord 16 0x2300)) (fun t => t.stack[15] == 0x2F2 && t.sp == 16 && t.pc == 0x300) = true := by decide

/-- T-CALL-3 -/
theorem test_call_overflow :
    faultIs (step (({ State.reset with sp := 16 }).withFetchWord 16 0x2300)) .stackOverflow = true := by decide

/-- T-JPV0-2 -/
theorem test_jpV0_keeps_carry :
    nextIs (step (((State.reset).setV 0 0xFF).withFetchWord 16 0xBFFF)) (fun t => t.pc == 0x10FE) = true := by decide

/-- T-JPV0-3 -/
theorem test_jpV0_no_register :
    nextIs (step (((State.reset).setV 2 0x55).withFetchWord 16 0xB210)) (fun t => t.pc == 0x210) = true := by decide

/-- T-SE-3 -/
theorem test_seImm_taken :
    nextIs (step (((State.reset).setV 15 0x01).withFetchWord 16 0x3F01)) (fun t => t.pc == 0x204) = true := by decide

/-- T-SE-2 -/
theorem test_seImm_not_taken :
    nextIs (step (((State.reset).setV 1 0x04).withFetchWord 16 0x3100)) (fun t => t.pc == 0x202) = true := by decide

/-- T-SNE-1 -/
theorem test_sneImm_taken :
    nextIs (step (((State.reset).setV 10 0x11).withFetchWord 16 0x4A10)) (fun t => t.pc == 0x204) = true := by decide

/-- T-SNE-2 -/
theorem test_sneImm_not_taken :
    nextIs (step (((State.reset).setV 10 0x10).withFetchWord 16 0x4A10)) (fun t => t.pc == 0x202) = true := by decide

/-- T-SER-1 -/
theorem test_seReg_taken :
    nextIs (step ((((State.reset).setV 1 0x7F).setV 2 0x7F).withFetchWord 16 0x5120)) (fun t => t.pc == 0x204) = true := by decide

/-- T-SER-2 -/
theorem test_seReg_not_taken :
    nextIs (step ((((State.reset).setV 1 0x7F).setV 2 0x80).withFetchWord 16 0x5120)) (fun t => t.pc == 0x202) = true := by decide

/-- T-SNER-1 -/
theorem test_sneReg_taken :
    nextIs (step ((((State.reset).setV 1 0x01).setV 2 0x02).withFetchWord 16 0x9120)) (fun t => t.pc == 0x204) = true := by decide

/-- T-SNER-2 -/
theorem test_sneReg_same :
    nextIs (step (((State.reset).setV 3 0x44).withFetchWord 16 0x9330)) (fun t => t.pc == 0x202) = true := by decide

/-- T-SKP-3 -/
theorem test_skp_low_nibble :
    nextIs (step ((({ State.reset with keys := State.reset.keys.set 10 true }).setV 3 0x1A).withFetchWord 16 0xE39E)) (fun t => t.pc == 0x204) = true := by decide

/-- T-SKP-2 -/
theorem test_skp_released :
    nextIs (step (((State.reset).setV 3 0x05).withFetchWord 16 0xE39E)) (fun t => t.pc == 0x202) = true := by decide

/-- T-SKNP-1 -/
theorem test_sknp_released :
    nextIs (step (((State.reset).setV 3 0x05).withFetchWord 16 0xE3A1)) (fun t => t.pc == 0x204) = true := by decide

/-- T-SKNP-2 -/
theorem test_sknp_pressed :
    nextIs (step ((({ State.reset with keys := State.reset.keys.set 5 true }).setV 3 0x05).withFetchWord 16 0xE3A1)) (fun t => t.pc == 0x202) = true := by decide

/-- T-LDI-1 -/
theorem test_ldImm :
    nextIs (step ((State.reset).withFetchWord 16 0x6A2F)) (fun t => t.getV 10 == 0x2F && t.pc == 0x202) = true := by decide

/-- T-ADDI-2 -/
theorem test_addImm_wraps_no_flag :
    nextIs (step (((State.reset).setV 1 0xFF).withFetchWord 16 0x7102)) (fun t => t.getV 1 == 0x01 && t.getV 15 == 0x00) = true := by decide

/-- T-LDIDX-2 -/
theorem test_ldI :
    nextIs (step ((State.reset.setI 0xFFFF).withFetchWord 16 0xAFFF)) (fun t => t.i == 0xFFF) = true := by decide

/-- T-RND-1 -/
theorem test_rnd_masks :
    nextIs (stepWith 0xA7 ((State.reset).withFetchWord 16 0xC30F)) (fun t => t.getV 3 == 0x07) = true := by decide

/-- T-RND-4 -/
theorem test_rnd_flag_register :
    nextIs (stepWith 0xFF ((State.reset).withFetchWord 16 0xCF81)) (fun t => t.getV 15 == 0x81) = true := by decide

/-- T-MOV-1 -/
theorem test_ldReg :
    nextIs (step (((State.reset).setV 2 0x3C).withFetchWord 16 0x8120)) (fun t => t.getV 1 == 0x3C) = true := by decide

/-- T-OR-1 -/
theorem test_or_keeps_flag :
    nextIs (step (((((State.reset).setV 1 0x0F).setV 2 0xF0).setV 15 0x01).withFetchWord 16 0x8121)) (fun t => t.getV 1 == 0xFF && t.getV 15 == 0x01) = true := by decide

/-- T-AND-1 -/
theorem test_and :
    nextIs (step ((((State.reset).setV 1 0x3C).setV 2 0x0F).withFetchWord 16 0x8122)) (fun t => t.getV 1 == 0x0C) = true := by decide

/-- T-XOR-1 -/
theorem test_xor :
    nextIs (step ((((State.reset).setV 1 0xFF).setV 2 0x0F).withFetchWord 16 0x8123)) (fun t => t.getV 1 == 0xF0) = true := by decide

/-- T-ADD-5 -/
theorem test_add_flag_overwrites_result :
    nextIs (step ((((State.reset).setV 15 0x80).setV 1 0x90).withFetchWord 16 0x8F14)) (fun t => t.getV 15 == 0x01) = true := by decide

/-- T-ADD-4 -/
theorem test_add_255_no_carry :
    nextIs (step ((((State.reset).setV 0 0x80).setV 1 0x7F).withFetchWord 16 0x8014)) (fun t => t.getV 0 == 0xFF && t.getV 15 == 0x00) = true := by decide

/-- T-SUB-2 -/
theorem test_sub_borrow :
    nextIs (step ((((State.reset).setV 0 0x01).setV 1 0x02).withFetchWord 16 0x8015)) (fun t => t.getV 0 == 0xFF && t.getV 15 == 0x01) = true := by decide

/-- T-SUB-3 -/
theorem test_sub_equal :
    nextIs (step ((((State.reset).setV 0 0x05).setV 1 0x05).withFetchWord 16 0x8015)) (fun t => t.getV 0 == 0x00 && t.getV 15 == 0x00) = true := by decide

/-- T-SHR-1 -/
theorem test_shr_source_x :
    nextIs (step ((((State.reset).setV 1 0x05).setV 2 0xF0).withFetchWord 16 0x8126)) (fun t => t.getV 1 == 0x02 && t.getV 15 == 0x01 && t.getV 2 == 0xF0) = true := by decide

/-- T-SHR-2 -/
theorem test_shr_source_y :
    nextIs (step (((({ State.reset with cfg := { defaultConfig with shiftSrc := .y } }).setV 1 0x05).setV 2 0xF0).withFetchWord 16 0x8126)) (fun t => t.getV 1 == 0x78 && t.getV 15 == 0x00) = true := by decide

/-- T-SUBN-1 -/
theorem test_subn :
    nextIs (step ((((State.reset).setV 0 0x03).setV 1 0x05).withFetchWord 16 0x8017)) (fun t => t.getV 0 == 0x02 && t.getV 15 == 0x00) = true := by decide

/-- T-SUBN-2 -/
theorem test_subn_borrow :
    nextIs (step ((((State.reset).setV 0 0x02).setV 1 0x01).withFetchWord 16 0x8017)) (fun t => t.getV 0 == 0xFF && t.getV 15 == 0x01) = true := by decide

/-- T-SHL-1 -/
theorem test_shl_source_x :
    nextIs (step ((((State.reset).setV 1 0x81).setV 2 0x01).withFetchWord 16 0x812E)) (fun t => t.getV 1 == 0x02 && t.getV 15 == 0x01) = true := by decide

/-- T-SHL-2 -/
theorem test_shl_source_y :
    nextIs (step (((({ State.reset with cfg := { defaultConfig with shiftSrc := .y } }).setV 1 0x81).setV 2 0x01).withFetchWord 16 0x812E)) (fun t => t.getV 1 == 0x02 && t.getV 15 == 0x00) = true := by decide

/-- T-DRW-5 -/
theorem test_drw_clips_at_corner :
    nextIs (step ((((((State.reset.setI 0x300).poke 0x300 0xFF).poke 0x301 0x81).setV 0 0x3C).setV 1 0x1F).withFetchWord 16 0xD012)) (fun t => t.disp.pixel 2044 && t.disp.pixel 2045 && t.disp.pixel 2046 && t.disp.pixel 2047 && !t.disp.pixel 1984 && !t.disp.pixel 60 && !t.disp.pixel 3 && t.getV 15 == 0x00 && t.draw && t.i == 0x300) = true := by decide

/-- T-DRW-8 -/
theorem test_drw_out_of_range :
    faultIs (step ((State.reset.setI 0xFFE).withFetchWord 16 0xD003)) (.addressOutOfRange 0x1000) = true := by decide

/-- T-TMR-1 -/
theorem test_ldVxDt :
    nextIs (step ((State.reset.setDT 0x01).withFetchWord 16 0xF207)) (fun t => t.getV 2 == 0x01 && t.dt == 0x01) = true := by decide

/-- T-KEY-3 -/
theorem test_ldVxKey_lowest :
    nextIs (step (({ State.reset with keys := (State.reset.keys.set 9 true).set 3 true }).withFetchWord 16 0xF10A)) (fun t => t.getV 1 == 0x03 && t.pc == 0x202) = true := by decide

/-- T-KEY-1 -/
theorem test_ldVxKey_waits :
    nextIs (step (((State.reset).setV 1 0x55).withFetchWord 16 0xF10A)) (fun t => t.getV 1 == 0x55 && t.pc == 0x200) = true := by decide

/-- T-TMR-2 -/
theorem test_ldDtVx :
    nextIs (step (((State.reset.setDT 0x09).setV 0 0x03).withFetchWord 16 0xF015)) (fun t => t.dt == 0x03) = true := by decide

/-- T-TMR-3 -/
theorem test_ldStVx :
    nextIs (step (((State.reset).setV 3 0x1E).withFetchWord 16 0xF318)) (fun t => t.st == 0x1E && toneActive t) = true := by decide

/-- T-ADDIDX-2 -/
theorem test_addI_above_memory :
    nextIs (step (((State.reset.setI 0xFFE).setV 1 0x05).withFetchWord 16 0xF11E)) (fun t => t.i == 0x1003 && t.getV 15 == 0x00) = true := by decide

/-- T-ADDIDX-3 -/
theorem test_addI_wraps :
    nextIs (step (((State.reset.setI 0xFFFF).setV 1 0x02).withFetchWord 16 0xF11E)) (fun t => t.i == 0x0001) = true := by decide

/-- T-FONT-2 -/
theorem test_ldFont :
    nextIs (step (((State.reset).setV 0 0x1A).withFetchWord 16 0xF029)) (fun t => t.i == 0x32) = true := by decide

/-- T-FONT-3 -/
theorem test_ldFont_base_050 :
    nextIs (step ((({ State.reset with cfg := { defaultConfig with fontBase := .at050 } }).setV 0 0x0F).withFetchWord 16 0xF029)) (fun t => t.i == 0x9B) = true := by decide

/-- T-BCD-1 -/
theorem test_ldBcd :
    nextIs (step (((State.reset.setI 0x300).setV 0 0x9D).withFetchWord 16 0xF033)) (fun t => t.peek 0x300 == 0x01 && t.peek 0x301 == 0x05 && t.peek 0x302 == 0x07 && t.i == 0x300) = true := by decide

/-- T-BCD-6 -/
theorem test_ldBcd_out_of_range :
    faultIs (step (((State.reset.setI 0xFFE).setV 0 0x09).withFetchWord 16 0xF033)) (.addressOutOfRange 0x1000) = true := by decide

/-- T-ST-1 -/
theorem test_storeRegs :
    nextIs (step ((((State.reset.setI 0x208).setV 0 0x62).setV 1 0x2A).withFetchWord 16 0xF155)) (fun t => t.peek 0x208 == 0x62 && t.peek 0x209 == 0x2A && t.i == 0x20A) = true := by decide

/-- T-ST-4 -/
theorem test_storeRegs_top :
    nextIs (step ((((State.reset.setI 0xFFE).setV 0 0x62).setV 1 0x2A).withFetchWord 16 0xF155)) (fun t => t.peek 0xFFE == 0x62 && t.peek 0xFFF == 0x2A && t.i == 0x1000) = true := by decide

/-- T-LD-1 -/
theorem test_loadRegs :
    nextIs (step (((((State.reset.setI 0x300).pokeList 0x300 [1, 5, 7]).setV 3 0x99)).withFetchWord 16 0xF265)) (fun t => t.getV 0 == 1 && t.getV 1 == 5 && t.getV 2 == 7 && t.getV 3 == 0x99 && t.i == 0x303) = true := by decide

/-- T-LD-2 -/
theorem test_loadRegs_font :
    nextIs (step ((State.reset).withFetchWord 16 0xF465)) (fun t => t.getV 0 == 0xF0 && t.getV 4 == 0xF0 && t.getV 1 == 0x90 && t.i == 0x5) = true := by decide

/-- T-DRW-5 with `DRAW_EDGE = wrap` -/
theorem test_drw_wraps_at_corner :
    nextIs (exec (.drw 0 1 2) ((((({ State.reset with cfg := { defaultConfig with drawEdge := .wrap }, i := 0x300 }).poke 0x300 0xFF).poke 0x301 0x81).setV 0 0x3C).setV 1 0x1F))
      (fun t => t.disp.pixel 2044 && t.disp.pixel 2047 && t.disp.pixel 1984 && t.disp.pixel 1987 && t.disp.pixel 60 && t.disp.pixel 3 && !t.disp.pixel 61 && !t.disp.pixel 2 && !t.disp.pixel 4 && t.getV 15 == 0x00) = true := by
  decide

/-- T-FETCH-2 -/
theorem test_fetch_second_byte_out_of_range :
    faultIs (step { State.reset with pc := 0xFFF }) (.addressOutOfRange 0x1000) = true := by decide

/-- T-UNK-1 -/
theorem test_unknown_halts : faultIs (step State.reset) (.unknownOpcode 0x0000) = true := by decide

/-- T-UNK-2 -/
theorem test_unknown_skips :
    (portStep 0 { State.reset with cfg := { defaultConfig with unknownPolicy := .skip } }).1 =
      .stepped { displayChanged := false, toneActive := false, report := some (0x0000, 0x0200) } := by decide

/-- T-TICK-2, T-TICK-4 -/
theorem test_tick :
    (portTick (State.reset.setST 1)).2 = true ∧ (portTick (State.reset.setST 1)).1.st = 0 ∧
    (portTick ((State.reset.setDT 0xFF).setST 2)).2 = false ∧
    (portTick ((State.reset.setDT 0xFF).setST 2)).1.dt = 0xFE := by decide

/-- T-SETKEY-1, T-KEY-5 -/
theorem test_setKey :
    (portSetKey 15 true State.reset).keyPressed 15 = true ∧
    (portSetKey 4 false (portSetKey 4 true State.reset)).keyPressed 4 = false := by decide

/-- T-LOAD-4 -/
theorem test_load :
    (transact (.loadProgram [0x12, 0x00]) State.reset).1 = .loaded ∧
    (transact (.loadProgram [0x12, 0x00]) State.reset).2.peek 0x200 = 0x12 ∧
    (transact (.loadProgram [0x12, 0x00]) State.reset).2.peek 0x201 = 0x00 := by decide

/-- T-RESET-1: the last byte of glyph F at 0x04F, zero after it, `pc`, `DRAW`. -/
theorem test_reset :
    State.reset.peek 0x000 = 0xF0 ∧ State.reset.peek 0x04F = 0x80 ∧ State.reset.peek 0x050 = 0x00 ∧
    State.reset.pc = 0x200 ∧ State.reset.draw = true := by decide

/-- T-FETCH-1: an opcode-table word stands in memory high byte first (R63). -/
theorem test_withFetchWord :
    (State.reset.withFetchWord 16 0x1234).peek 0x200 = 0x12 ∧
    (State.reset.withFetchWord 16 0x1234).peek 0x201 = 0x34 ∧ decodeTableWord 16 0x1234 = some (.jp 0x234) := by decide

/-! ## Witnesses: for each obligation with hypotheses, a state and operands that meet them, at the boundary values -/

theorem witness_EncodeOfDecodeIsTheOpcode :
    decode 0x1ABC#16 = some (.jp 0xABC) ∧ decode 0xFF65#16 = some (.loadRegs 15) := by decide

theorem witness_DecoderAgreesWithTheOpcodeMap :
    decode 0x5AB0#16 = some (.seReg 10 11) ∧ (Instr.seReg 10 11).row ∈ opcodeTable ∧ decode 0x5AB1#16 = none ∧
      wellFormedWord 0x5AB1#16 = false := by decide

/-- The last address an opcode can stand at: 0xFFE. -/
theorem witness_StepRunsTheInstructionAtPc :
    ({ State.reset with pc := 0xFFE }.withFetchWord 16 0x6A2F).pc.toNat ≤ 0xFFE ∧
      (0x6A2F#16 : Word).extractLsb' 8 8 = ({ State.reset with pc := 0xFFE }.withFetchWord 16 0x6A2F).peek 0xFFE ∧
      (0x6A2F#16 : Word).extractLsb' 0 8 = ({ State.reset with pc := 0xFFE }.withFetchWord 16 0x6A2F).peek 0xFFF ∧
      decode 0x6A2F#16 = some (.ldImm 10 0x2F) := by decide

theorem witness_AddressOutOfRange_fetch :
    ({ State.reset with pc := 0xFFF }).pc.toNat = 0xFFF ∧ 0xFFF < ({ State.reset with pc := 0x1000 }).pc.toNat ∧
      faultIs (step { State.reset with pc := 0x1000 }) (.addressOutOfRange 0x1000) = true ∧
      faultIs (step { State.reset with pc := 0x10FE }) (.addressOutOfRange 0x10FE) = true := by decide

theorem witness_AddressOutOfRange_drw :
    (1 ≤ (2 : Fin 16).val ∧ 0xFFF < (State.reset.setI 0xFFF).i.toNat + (2 : Fin 16).val - 1) ∧
      ((State.reset.setI 0xFFF).i.toNat + (1 : Fin 16).val - 1 ≤ 0xFFF) ∧ (0 : Fin 16).val = 0 ∧
      faultIs (exec (.drw 0 1 2) (State.reset.setI 0xFFF)) (.addressOutOfRange 0x1000) = true ∧
      faultIs (exec (.drw 0 1 1) (State.reset.setI 0x1001)) (.addressOutOfRange 0x1001) = true ∧
      nextIs (exec (.drw 0 1 1) (State.reset.setI 0xFFF)) (fun _ => true) = true ∧
      nextIs (exec (.drw 0 1 0) (State.reset.setI 0xFFFF)) (fun t => t.draw && t.getV 15 == 0) = true := by decide

theorem witness_AddressOutOfRange_bcd :
    0xFFF < (State.reset.setI 0xFFE).i.toNat + 2 ∧ (State.reset.setI 0xFFD).i.toNat + 2 ≤ 0xFFF ∧
      faultIs (exec (.ldBcd 0) (State.reset.setI 0xFFE)) (.addressOutOfRange 0x1000) = true ∧
      nextIs (exec (.ldBcd 0) (State.reset.setI 0xFFD)) (fun _ => true) = true := by decide

theorem witness_AddressOutOfRange_registers :
    0xFFF < (State.reset.setI 0xFFF).i.toNat + (1 : Reg).val ∧ (State.reset.setI 0xFFF).i.toNat + (0 : Reg).val ≤ 0xFFF ∧
      faultIs (exec (.storeRegs 1) (State.reset.setI 0xFFF)) (.addressOutOfRange 0x1000) = true ∧
      faultIs (exec (.loadRegs 0) (State.reset.setI 0x1000)) (.addressOutOfRange 0x1000) = true ∧
      nextIs (exec (.loadRegs 0) (State.reset.setI 0xFFF)) (fun _ => true) = true := by decide

theorem witness_AddressOutOfRange_port :
    faultIs (stepWith 0 { State.reset with pc := 0xFFF }) (.addressOutOfRange 0x1000) = true := by decide

theorem witness_StackErrorsWhenAndHow :
    ({ State.reset with sp := 16 }.withFetchWord 16 0x2ABC).fetch = .ok 0x2ABC#16 ∧ decode 0x2ABC#16 = some (.call 0xABC) ∧
      ({ State.reset with sp := 16 }.withFetchWord 16 0x2ABC).sp.val = 16 ∧
      (State.reset.withFetchWord 16 0x00EE).fetch = .ok 0x00EE#16 ∧ decode 0x00EE#16 = some .ret ∧
      (State.reset.withFetchWord 16 0x00EE).sp.val = 0 := by
  refine ⟨?_, by decide, by decide, ?_, by decide, by decide⟩ <;> rfl

theorem witness_UnknownOpcodeHaltsOrIsSkipped :
    (State.reset.fetch = .ok 0x0000#16 ∧ decode 0x0000#16 = none ∧ State.reset.cfg.unknownPolicy = .halt) ∧
      (({ State.reset with cfg := { defaultConfig with unknownPolicy := .skip } }).fetch = .ok 0x0000#16 ∧
      ({ State.reset with cfg := { defaultConfig with unknownPolicy := .skip } }).cfg.unknownPolicy = .skip) := ⟨⟨rfl, by decide, rfl⟩, rfl, rfl⟩

theorem witness_OnlyTheNamedErrorsAreRaised :
    faultIs (exec .ret State.reset) .stackUnderflow = true ∧
      faultIs (exec (.call 0x300) { State.reset with sp := 16 }) .stackOverflow = true ∧
      faultIs (exec (.ldBcd 0) (State.reset.setI 0xFFE)) (.addressOutOfRange 0x1000) = true := by decide

theorem witness_ErrorsLeaveTheStateUnchanged :
    (transact (.step 0) State.reset).1.ok = false := by decide

theorem witness_ErrorsLeaveTheStateUnchanged_load :
    (transact (.loadProgram (List.replicate 3585 0)) State.reset).1.ok = false := by
  rw [transact, portLoad, if_pos (by rw [List.length_replicate]; decide)]
  rfl

theorem witness_StepOutcomeTellsTheHost :
    ∃ o t, portStep 0 (State.reset.withFetchWord 16 0x00E0) = (.stepped o, t) ∧ o.displayChanged = true ∧
      o.report = none := ⟨_, _, rfl, rfl, rfl⟩

theorem witness_StepOutcomeTellsTheHost_skip :
    ∃ o t, portStep 0 { State.reset with cfg := { defaultConfig with unknownPolicy := .skip } } = (.stepped o, t) ∧
      decode 0x0000#16 = none ∧ o.report = some (0x0000, 0x200) := ⟨_, _, rfl, by decide, rfl⟩

/-- A step that goes on (a key wait), a step that fails. -/
theorem witness_StepOutcomeTellsTheHost_port :
    (∃ t, stepWith 0 (State.reset.withFetchWord 16 0xF10A) = .next t ∧ t.pc = 0x200) ∧
      ∃ f, stepWith 0 State.reset = .fault f := ⟨⟨_, rfl, rfl⟩, _, rfl⟩

/-- `CXNN` fetched: the byte given is the byte drawn. -/
theorem witness_RandomByteReachesOnlyRnd_rnd :
    (State.reset.withFetchWord 16 0xCAFF).fetch = .ok 0xCAFF#16 ∧ decode 0xCAFF#16 = some (.rnd 10 0xFF) ∧
      nextIs (stepWith 0x5A (State.reset.withFetchWord 16 0xCAFF)) (fun t => t.getV 10 == 0x5A) = true := by
  refine ⟨?_, by decide, by decide⟩
  rfl

/-- The opcode below the range of `CXNN`, an undefined opcode, a failed fetch. -/
theorem witness_RandomByteReachesOnlyRnd_others :
    (∀ x nn, Instr.cls ≠ .rnd x nn) ∧
      (∀ op, (State.reset.withFetchWord 16 0xBFFF).fetch = .ok op → op.extractLsb' 12 4 ≠ 0xC#4) ∧
      (∀ op, State.reset.fetch = .ok op → op.extractLsb' 12 4 ≠ 0xC#4) ∧
      ∀ op, ({ State.reset with pc := 0xFFF }).fetch = .ok op → op.extractLsb' 12 4 ≠ 0xC#4 := by
  refine ⟨nofun, fun op h => ?_, fun op h => ?_, fun op h => ?_⟩
  · have e : (State.reset.withFetchWord 16 0xBFFF).fetch = .ok 0xBFFF#16 := rfl
    rw [e] at h
    cases h
    decide
  · have e : State.reset.fetch = .ok 0x0000#16 := rfl
    rw [e] at h
    cases h
    decide
  · have e : ({ State.reset with pc := 0xFFF }).fetch = .error (.addressOutOfRange 0x1000) := rfl
    rw [e] at h
    cases h

/-- Both ways of a skip; a key named by the low nibble. -/
theorem witness_ProgramCounterAdvances_skip :
    nextIs (exec (.seImm 0 0) State.reset) (fun t => t.pc == 0x204) = true ∧
      nextIs (exec (.seImm 0 1) State.reset) (fun t => t.pc == 0x202) = true ∧
      (15 : Key).val = ((State.reset.setV 0 0x1F).getV 0).toNat % 16 ∧
      nextIs (exec (.sknp 0) (State.reset.setV 0 0x1F)) (fun t => t.pc == 0x204) = true := by decide

/-- The highest `pc` (R25), the fullest stack. -/
theorem witness_ProgramCounterAdvances_jump :
    nextIs (exec (.jpV0 0xFFF) (State.reset.setV 0 0xFF)) (fun t => t.pc == 0x10FE) = true ∧
      nextIs (exec .ret { State.reset with sp := 16 }) (fun t => t.pc == 0) = true ∧
      nextIs (exec (.call 0xABC) { State.reset with sp := 15 }) (fun t => t.pc == 0xABC) = true := by decide

theorem witness_ProgramCounterAdvances_error :
    ∃ t, portStep 0 State.reset = (.stepFailed (.unknownOpcode 0x0000), t) := ⟨_, rfl⟩

theorem witness_ProgramCounterAdvances_keyWait :
    (∀ k, State.reset.keyPressed k = false) ∧ (∃ k, (portSetKey 15 true State.reset).keyPressed k = true) ∧
      nextIs (exec (.ldVxKey 1) (portSetKey 15 true State.reset)) (fun t => t.pc == 0x202) = true := by decide

theorem witness_FlagRegisterWriters :
    nextIs (exec (.addReg 15 1) (State.reset.setV 1 0xFF)) (fun t => t.getV 15 == 0) = true ∧
      nextIs (exec (.shrReg 0 1) (State.reset.setV 0 0x01)) (fun t => t.getV 15 == 1) = true ∧
      nextIs (exec (.ldImm 14 0xFF) State.reset) (fun t => t.getV 15 == 0) = true ∧ (14 : Reg) ≠ 15 := by decide

/-- Font byte 0xF0 covers pixel 0 and not pixel 4. -/
theorem witness_FlagRegisterWriters_drw :
    nextIs (exec (.drw 0 1 1) (withPixel State.reset 0)) (fun t => t.getV 15 == 1) = true ∧
      nextIs (exec (.drw 0 1 1) ((withPixel State.reset 4).setV 15 1)) (fun t => t.getV 15 == 0) = true := by decide

/-- Clause by clause, an instruction that does write the element. -/
theorem witness_EachElementHasOnlyItsWriters :
    nextIs (exec (.call 0xABC) State.reset) (fun t => t.sp != State.reset.sp && t.stack != State.reset.stack) = true ∧
      nextIs (exec .cls { State.reset with draw := false }) (fun t => t.draw) = true ∧
      nextIs (exec (.ldDtVx 0) (State.reset.setV 0 1)) (fun t => t.dt != 0) = true ∧
      nextIs (exec (.storeRegs 0) (State.reset.setI 0x300 |>.setV 0 1)) (fun t => t.i != 0x300 && t.mem != []) = true ∧
      nextIs (exec (.rnd 0 0) State.reset) (fun t => t.draws != 0) = true := by decide

theorem witness_StepKeepsInv :
    (State.reset.withFetchWord 16 0xBFFF).Inv ∧ ∃ t, step (State.reset.withFetchWord 16 0xBFFF) = .next t := ⟨⟨by decide, by decide, by decide⟩, _, rfl⟩

/-- The highest `pc` of the invariant. -/
theorem witness_PcNeverExceeds0x10FE_anyState :
    ({ State.reset with pc := 0x10FE }).Inv ∧ Memory.wf defaultConfig ({ State.reset with pc := 0x10FE }).mem = true := ⟨⟨by decide, by decide, by decide⟩, by decide⟩

theorem witness_PcNeverExceeds0x10FE :
    Reachable State.reset ∧ Reachable (transact .tickTimers State.reset).2 := ⟨⟨defaultConfig, [], rfl⟩, defaultConfig, [.tickTimers], rfl⟩

theorem witness_ReturnPops :
    0 < ({ State.reset with sp := 1 }).sp.val ∧ 0 < ({ State.reset with sp := 16 }).sp.val ∧ State.reset.sp.val = 0 ∧
      nextIs (exec .ret { State.reset with sp := 1 }) (fun t => t.sp == 0) = true ∧
      nextIs (exec .ret { State.reset with sp := 16 }) (fun t => t.sp == 15) = true := by decide

theorem witness_CallPushesTheNextAddress :
    (0x2FFF#16 : Word).extractLsb' 12 4 = 0x2#4 ∧ ({ State.reset with sp := 15 }).sp.val < 16 ∧
      ({ State.reset with sp := 16 }).sp.val = 16 ∧ (0 : Fin 16).val ≠ 15 ∧
      nextIs (exec (.call 0xFFF) { State.reset with sp := 15 }) (fun t => t.sp == 16 && t.stack[15] == 0x202) = true := by decide

theorem witness_JumpGoesToNnn :
    (0x1FFF#16 : Word).extractLsb' 12 4 = 0x1#4 ∧ decode 0x1FFF#16 = some (.jp 0xFFF) ∧ (0xFFF#12 : Addr12) = 0xFFF#12 := by decide

theorem witness_JumpIndexedByV0 :
    (0xBFFF#16 : Word).extractLsb' 12 4 = 0xB#4 ∧ decode 0xBFFF#16 = some (.jpV0 0xFFF) := by decide

theorem witness_SkipIfRegisterEqualsByte :
    (0x3FFF#16 : Word).extractLsb' 12 4 = 0x3#4 ∧ decode 0x3FFF#16 = some (.seImm 15 0xFF) := by decide

theorem witness_SkipIfRegisterDiffersFromByte :
    (0x4FFF#16 : Word).extractLsb' 12 4 = 0x4#4 ∧ decode 0x4FFF#16 = some (.sneImm 15 0xFF) := by decide

theorem witness_SkipIfRegistersEqual :
    (0x5FE0#16 : Word).extractLsb' 12 4 = 0x5#4 ∧ (0x5FE0#16 : Word).extractLsb' 0 4 = 0x0#4 ∧
      decode 0x5FE0#16 = some (.seReg 15 14) := by decide

theorem witness_SkipIfRegistersDiffer :
    (0x9FE0#16 : Word).extractLsb' 12 4 = 0x9#4 ∧ (0x9FE0#16 : Word).extractLsb' 0 4 = 0x0#4 ∧
      decode 0x9FE0#16 = some (.sneReg 15 14) := by decide

theorem witness_LoadImmediateWritesVx :
    (0x6FFF#16 : Word).extractLsb' 12 4 = 0x6#4 ∧ decode 0x6FFF#16 = some (.ldImm 15 0xFF) := by decide

theorem witness_AddImmediateWrapsWithoutFlag :
    (0x7FFF#16 : Word).extractLsb' 12 4 = 0x7#4 ∧ decode 0x7FFF#16 = some (.addImm 15 0xFF) := by decide

theorem witness_LoadIndexWritesNnn :
    (0xAFFF#16 : Word).extractLsb' 12 4 = 0xA#4 ∧ decode 0xAFFF#16 = some (.ldI 0xFFF) := by decide

theorem witness_RandomIsMaskedByNn :
    (0xCF0F#16 : Word).extractLsb' 12 4 = 0xC#4 ∧ decode 0xCF0F#16 = some (.rnd 15 0x0F) ∧ (0x0F#8 : Byte).getLsbD 7 = false := by decide

theorem witness_AssignCopiesVy :
    (0x8FE0#16 : Word).extractLsb' 12 4 = 0x8#4 ∧ (0x8FE0#16 : Word).extractLsb' 0 4 = 0x0#4 ∧
      decode 0x8FE0#16 = some (.ldReg 15 14) := by decide

theorem witness_OrLeavesTheFlag :
    (0x8FE1#16 : Word).extractLsb' 12 4 = 0x8#4 ∧ (0x8FE1#16 : Word).extractLsb' 0 4 = 0x1#4 ∧
      decode 0x8FE1#16 = some (.orReg 15 14) := by decide

theorem witness_AndLeavesTheFlag :
    (0x8FE2#16 : Word).extractLsb' 12 4 = 0x8#4 ∧ (0x8FE2#16 : Word).extractLsb' 0 4 = 0x2#4 ∧
      decode 0x8FE2#16 = some (.andReg 15 14) := by decide

theorem witness_XorLeavesTheFlag :
    (0x8FE3#16 : Word).extractLsb' 12 4 = 0x8#4 ∧ (0x8FE3#16 : Word).extractLsb' 0 4 = 0x3#4 ∧
      decode 0x8FE3#16 = some (.xorReg 15 14) := by decide

theorem witness_AddSetsCarry :
    (0x8FE4#16 : Word).extractLsb' 12 4 = 0x8#4 ∧ (0x8FE4#16 : Word).extractLsb' 0 4 = 0x4#4 ∧
      decode 0x8FE4#16 = some (.addReg 15 14) ∧ (14 : Reg) ≠ 15 := by decide

theorem witness_SubSetsBorrow :
    (0x8FE5#16 : Word).extractLsb' 12 4 = 0x8#4 ∧ (0x8FE5#16 : Word).extractLsb' 0 4 = 0x5#4 ∧
      decode 0x8FE5#16 = some (.subReg 15 14) ∧ (14 : Reg) ≠ 15 := by decide

theorem witness_ShiftRightSetsShiftedOutBit :
    (0x8FE6#16 : Word).extractLsb' 12 4 = 0x8#4 ∧ (0x8FE6#16 : Word).extractLsb' 0 4 = 0x6#4 ∧
      decode 0x8FE6#16 = some (.shrReg 15 14) ∧ (14 : Reg) ≠ 15 := by decide

theorem witness_ReverseSubSetsBorrow :
    (0x8FE7#16 : Word).extractLsb' 12 4 = 0x8#4 ∧ (0x8FE7#16 : Word).extractLsb' 0 4 = 0x7#4 ∧
      decode 0x8FE7#16 = some (.subnReg 15 14) ∧ (14 : Reg) ≠ 15 := by decide

theorem witness_ShiftLeftSetsShiftedOutBit :
    (0x8FEE#16 : Word).extractLsb' 12 4 = 0x8#4 ∧ (0x8FEE#16 : Word).extractLsb' 0 4 = 0xE#4 ∧
      decode 0x8FEE#16 = some (.shlReg 15 14) ∧ (14 : Reg) ≠ 15 := by decide

theorem witness_WriteDelayTimer :
    (0xFF15#16 : Word).extractLsb' 12 4 = 0xF#4 ∧ (0xFF15#16 : Word).extractLsb' 0 8 = 0x15#8 ∧
      decode 0xFF15#16 = some (.ldDtVx 15) := by decide

theorem witness_WriteSoundTimer :
    (0xFF18#16 : Word).extractLsb' 12 4 = 0xF#4 ∧ (0xFF18#16 : Word).extractLsb' 0 8 = 0x18#8 ∧
      decode 0xFF18#16 = some (.ldStVx 15) := by decide

theorem witness_AddToIndexWrapsWithoutFlag :
    (0xFF1E#16 : Word).extractLsb' 12 4 = 0xF#4 ∧ (0xFF1E#16 : Word).extractLsb' 0 8 = 0x1E#8 ∧
      decode 0xFF1E#16 = some (.addI 15) := by decide

theorem witness_FontAddressOfLowNibble :
    (0xFF29#16 : Word).extractLsb' 12 4 = 0xF#4 ∧ (0xFF29#16 : Word).extractLsb' 0 8 = 0x29#8 ∧
      decode 0xFF29#16 = some (.ldFont 15) := by decide

theorem witness_SkipIfKeyPressed :
    (0xEF9E#16 : Word).extractLsb' 12 4 = 0xE#4 ∧ (0xEF9E#16 : Word).extractLsb' 0 8 = 0x9E#8 ∧
      decode 0xEF9E#16 = some (.skp 15) ∧
      (15 : Key).val = ((State.reset.setV 15 0x1F).getV 15).toNat % 16 ∧ (0 : Key).val = ((State.reset.setV 15 0x10).getV 15).toNat % 16 := by decide

theorem witness_SkipIfKeyReleased :
    (0xEFA1#16 : Word).extractLsb' 12 4 = 0xE#4 ∧ (0xEFA1#16 : Word).extractLsb' 0 8 = 0xA1#8 ∧
      decode 0xEFA1#16 = some (.sknp 15) ∧
      (15 : Key).val = ((State.reset.setV 15 0x1F).getV 15).toNat % 16 := by decide

/-- Fifteen rows ending at 0xFFF, no row above memory, the fifteenth row offending, the first row offending. -/
theorem witness_DrawXorsTheSprite :
    (0xDEF5#16 : Word).extractLsb' 12 4 = 0xD#4 ∧ (∀ r < (15 : Fin 16).val, (State.reset.setI 0xFF1).i.toNat + r ≤ 0xFFF) ∧
      (∀ r < (0 : Fin 16).val, (State.reset.setI 0xFFFF).i.toNat + r ≤ 0xFFF) ∧
      (14 < (15 : Fin 16).val ∧ 0xFFF < (State.reset.setI 0xFF2).i.toNat + 14 ∧
        ∀ j < 14, (State.reset.setI 0xFF2).i.toNat + j ≤ 0xFFF) ∧
      (0 < (1 : Fin 16).val ∧ 0xFFF < (State.reset.setI 0x1000).i.toNat + 0) := by decide

/-- Glyph 0 at the bottom right corner: pixel 2047 is covered, pixel 0 is not under `clip`; under `wrap` its second column
comes back at the left edge. -/
theorem witness_DrawXorsTheSprite_covers :
    SpriteCovers .clip (fun r => State.reset.peek r) 5 63 31 2047 ∧ ¬ SpriteCovers .clip (fun r => State.reset.peek r) 5 63 31 0 ∧
      SpriteCovers .wrap (fun r => State.reset.peek r) 5 63 31 1984 := by
  refine ⟨⟨0, by decide, 0, by decide, by decide, by decide⟩, ?_, ⟨0, by decide, 1, by decide, by decide, by decide⟩⟩
  rintro ⟨r, -, c, -, -, h⟩
  simp only at h
  omega

theorem witness_DrawXorsTheSprite_collision :
    nextIs (exec (.drw 0 1 1) (withPixel State.reset 0)) (fun t => t.getV 15 == 1 && !t.disp.pixel 0 && t.disp.pixel 1) = true := by decide

theorem witness_DrawingTwiceRestoresTheDisplay :
    ∃ t, exec (.drw 0 1 5) State.reset = .next t ∧ (t.getV 0).toNat % 64 = (State.reset.getV 0).toNat % 64 ∧
      (t.getV 1).toNat % 32 = (State.reset.getV 1).toNat % 32 := ⟨_, rfl, by decide, by decide⟩

theorem witness_ReadDelayTimer :
    (0xFF07#16 : Word).extractLsb' 12 4 = 0xF#4 ∧ (0xFF07#16 : Word).extractLsb' 0 8 = 0x07#8 ∧
      decode 0xFF07#16 = some (.ldVxDt 15) ∧
      State.reset.dt.toNat < (transact (.step 0) ((State.reset.setV 0 9).withFetchWord 16 0xF015)).2.dt.toNat ∧
      (State.reset.setDT 2).dt.toNat ≤ 2 ∧ (transactAll [.tickTimers, .tickTimers] (State.reset.setDT 2)).dt = 0 := by decide

theorem witness_KeyWaitRetriesOrStores :
    (0xFF0A#16 : Word).extractLsb' 12 4 = 0xF#4 ∧ (0xFF0A#16 : Word).extractLsb' 0 8 = 0x0A#8 ∧
      decode 0xFF0A#16 = some (.ldVxKey 15) ∧
      (∀ k, State.reset.keyPressed k = false) ∧
      (portSetKey 15 true State.reset).keyPressed 15 = true ∧ (∀ j < (15 : Key), (portSetKey 15 true State.reset).keyPressed j = false) := by decide

theorem witness_BcdStoresThreeDigits :
    (0xFF33#16 : Word).extractLsb' 12 4 = 0xF#4 ∧ (0xFF33#16 : Word).extractLsb' 0 8 = 0x33#8 ∧
      decode 0xFF33#16 = some (.ldBcd 15) ∧
      Memory.wf State.reset.cfg State.reset.mem = true ∧ (State.reset.setI 0xFFD).i.toNat + 2 ≤ 0xFFF ∧
      (2 < 3 ∧ 0xFFF < (State.reset.setI 0xFFE).i.toNat + 2 ∧ ∀ j < 2, (State.reset.setI 0xFFE).i.toNat + j ≤ 0xFFF) ∧
      0xFFF < (State.reset.setI 0x1000).i.toNat + 0 := by decide

theorem witness_StoreRegistersAscending :
    (0xFF55#16 : Word).extractLsb' 12 4 = 0xF#4 ∧ (0xFF55#16 : Word).extractLsb' 0 8 = 0x55#8 ∧
      decode 0xFF55#16 = some (.storeRegs 15) ∧
      Memory.wf State.reset.cfg State.reset.mem = true ∧ (State.reset.setI 0xFF0).i.toNat + (15 : Reg).val ≤ 0xFFF ∧
      (15 ≤ (15 : Reg).val ∧ 0xFFF < (State.reset.setI 0xFF1).i.toNat + 15 ∧
        ∀ j < 15, (State.reset.setI 0xFF1).i.toNat + j ≤ 0xFFF) := by decide

theorem witness_LoadRegistersAscending :
    (0xFF65#16 : Word).extractLsb' 12 4 = 0xF#4 ∧ (0xFF65#16 : Word).extractLsb' 0 8 = 0x65#8 ∧
      decode 0xFF65#16 = some (.loadRegs 15) ∧
      (State.reset.setI 0xFF0).i.toNat + (15 : Reg).val ≤ 0xFFF ∧ (14 : Reg).val < (15 : Reg).val ∧
      (15 ≤ (15 : Reg).val ∧ 0xFFF < (State.reset.setI 0xFF1).i.toNat + 15 ∧
        ∀ j < 15, (State.reset.setI 0xFF1).i.toNat + j ≤ 0xFFF) := by decide

theorem witness_ReturnComesBackAfterTheCall :
    ∃ t, exec (.call 0x300) { State.reset with sp := 15 } = .next t ∧
      ∃ u : State, u.sp = t.sp ∧ ∀ k : Fin 16, k.val = 15 → u.stack[k] = t.stack[k] := ⟨_, rfl, _, rfl, fun _ _ => rfl⟩

theorem witness_StoredInstructionIsFetchedNext :
    Memory.wf State.reset.cfg ({ State.reset with pc := 0xFFE }).mem = true ∧ ({ State.reset with pc := 0xFFE }).pc.toNat ≤ 0xFFE ∧
      decode (BitVec.ofNat 16 0x1ABC) = some (.jp 0xABC) ∧
      ({ State.reset with pc := 0xFFE }.withFetchWord 16 0x5AB1).peek 0xFFE = 0x5A ∧
      ({ State.reset with pc := 0xFFE }.withFetchWord 16 0x5AB1).peek 0xFFF = 0xB1 := by decide

theorem witness_ResetWritesEveryElement :
    ({ State.reset with st := 5 }).cfg = State.reset.cfg ∧ ({ State.reset with st := 5 }).draws = State.reset.draws ∧
      0 + 80 ≤ 0x050 ∧ 0x04F < 0x050 := by decide

theorem witness_LoadProgramCopiesOrFails :
    Memory.wf State.reset.cfg State.reset.mem = true ∧ (List.replicate 3584 (0 : Byte)).length ≤ 3584 ∧
      3584 < (List.replicate 3585 (0 : Byte)).length := by
  rw [List.length_replicate, List.length_replicate]
  decide

theorem witness_HostReadsAndWritesItsOwn :
    (0 : Key) ≠ 15 := by decide

end Sys2Proof.Tests
end

section
/-! SUPPORT. Where the random byte of a step can be read (spec 00_scope.md R12, D34): the decoder gives `CXNN` in family
0xC alone, `execWith` reads its byte for `CXNN` alone, and a step depends only on the meaning of the instruction it
decodes. -/

namespace Sys2Proof

/-! ## The decoder gives `CXNN` in family 0xC alone (R94) -/

section
variable (op : Word) (x : Reg) (nn : Byte)

theorem decodeFixed_ne_rnd : decodeFixed op ≠ some (.rnd x nn) := by
  unfold decodeFixed
  split_ifs <;> simp

theorem decodeXY0_ne_rnd {form : Reg → Reg → Instr} (hform : ∀ a b, form a b ≠ .rnd x nn) :
    decodeXY0 op form ≠ some (.rnd x nn) := by
  unfold decodeXY0
  split_ifs
  · simpa using hform _ _
  · simp

theorem decodeAlu_ne_rnd : decodeAlu op ≠ some (.rnd x nn) := by
  unfold decodeAlu
  split <;> simp

theorem decodeKeySkip_ne_rnd : decodeKeySkip op ≠ some (.rnd x nn) := by
  unfold decodeKeySkip
  split <;> simp

theorem decodeMisc_ne_rnd : decodeMisc op ≠ some (.rnd x nn) := by
  unfold decodeMisc
  split <;> simp

end

/-- Of the families of R94, the four with a decoder of their own never give `CXNN`; of the others only 0xC does. -/
theorem opMajor_of_decode_eq_rnd {op : Word} {x : Reg} {nn : Byte} (h : decode op = some (.rnd x nn)) :
    opMajor op = 0xC#4 := by
  unfold decode at h
  split at h <;>
    simp [decodeFixed_ne_rnd, decodeXY0_ne_rnd, decodeAlu_ne_rnd, decodeKeySkip_ne_rnd, decodeMisc_ne_rnd] at h
  assumption

end Sys2Proof

namespace Sys2Proof.Machine

/-! ## `execWith` and `exec` -/

theorem execWith_of_ne_rnd (rnd : Byte) {i : Instr} (s : State) (h : ∀ x nn, i ≠ .rnd x nn) :
    execWith rnd i s = exec i s := by
  unfold execWith
  split
  · exact absurd rfl (h _ _)
  · rfl

/-- `exec` is `execWith` at the free byte of this draw (R12; log entry 2). -/
theorem execWith_randomByte (i : Instr) (s : State) : execWith (Config.randomByte s.draws) i s = exec i s := by
  unfold execWith
  split <;> rfl

/-! ## A step depends only on the meaning of the instruction it decodes (R122) -/

theorem cycle_of_decode (run : Instr → State → Result) {s : State} {op : Word} {i : Instr} (hf : s.fetch = .ok op)
    (hd : decode op = some i) : cycle run s = run i s := by
  simp [cycle, hf, hd]

theorem cycle_congr {run run' : Instr → State → Result} {s : State}
    (h : ∀ op i, s.fetch = .ok op → decode op = some i → run i s = run' i s) : cycle run s = cycle run' s := by
  unfold cycle
  cases hf : s.fetch with
  | error f => rfl
  | ok op =>
    cases hd : decode op with
    | some i => simpa [hd] using h op i hf hd
    | none => simp [hd]

/-- The step at the free byte is the host interface's step (log entry 2). -/
theorem stepWith_randomByte (s : State) : stepWith (Config.randomByte s.draws) s = step s :=
  cycle_congr fun _ i _ _ => execWith_randomByte i s

/-- Where no opcode of family 0xC is fetched, the decoded instruction is not `CXNN` and the byte is not read. -/
theorem stepWith_eq_step (rnd : Byte) {s : State} (h : ∀ op, s.fetch = .ok op → opMajor op ≠ 0xC#4) :
    stepWith rnd s = step s := by
  refine cycle_congr fun op i hf hd => execWith_of_ne_rnd rnd s ?_
  rintro x nn rfl
  exact h op hf (opMajor_of_decode_eq_rnd hd)

/-- The step port sees its byte through `stepWith` alone (R121). -/
theorem portStep_congr {rnd rnd' : Byte} {s : State} (h : stepWith rnd s = stepWith rnd' s) :
    portStep rnd s = portStep rnd' s := by
  unfold portStep
  rw [h]

/-- Settles O12: `execWith` reads the byte for `CXNN` alone, and the decoder gives `CXNN` for top nibble C alone. -/
theorem randomByteReachesOnlyRnd : Obligations.RandomByteReachesOnlyRnd := by
  refine ⟨?_, ?_, ?_, stepWith_randomByte⟩
  · exact fun rnd s op i hf hd => cycle_of_decode (execWith rnd) hf hd
  · exact fun rnd i s h => execWith_of_ne_rnd rnd s h
  · intro rnd s h
    have hstep : ∀ b, stepWith b s = step s := fun b => stepWith_eq_step b h
    exact ⟨hstep rnd, fun rnd' => portStep_congr ((hstep rnd').trans (hstep rnd).symm)⟩

end Sys2Proof.Machine
end

section
/-! SUPPORT. The instructions with more than one way to end, and the operands of control transfer: what a step that
goes on can have done (spec 41_control_transfer.md, 46_timers_and_keys.md R221). -/

namespace Sys2Proof.Machine

/-- `00EE` goes on only with an address held (R150, R253). -/
theorem exec_ret_eq_next {s t : State} (h : exec .ret s = .next t) :
    ∃ hsp : 0 < s.sp.val, t = { s with sp := ⟨s.sp.val - 1, by omega⟩, pc := s.stack[s.sp.val - 1] } := by
  change execRet s = .next t at h
  rcases s.pop_cases with ⟨-, hp⟩ | ⟨hsp, hp⟩ <;> rw [execRet, hp] at h <;> cases h
  exact ⟨hsp, rfl⟩

/-- `2NNN` goes on only with a free slot (R152, R252). -/
theorem exec_call_eq_next {nnn : Addr12} {s t : State} (h : exec (.call nnn) s = .next t) :
    ∃ hsp : s.sp.val < 16, t = { s with
      stack := s.stack.set s.sp.val (s.pc + 2), sp := ⟨s.sp.val + 1, by omega⟩, pc := addressOperand nnn } := by
  change execCall nnn s = .next t at h
  rcases s.push_cases (s.pc + 2) with ⟨-, hp⟩ | ⟨hsp, hp⟩ <;> rw [execCall, hp] at h <;> cases h
  exact ⟨hsp, rfl⟩

/-- `FX0A` leaves the whole state or stores the lowest pressed key (R221). -/
theorem exec_ldVxKey_eq_next {x : Reg} {s t : State} (h : exec (.ldVxKey x) s = .next t) :
    (s.lowestKey = none ∧ t = s) ∨
    ∃ k, s.lowestKey = some k ∧ t = (s.setV x (BitVec.ofNat 8 k.val)).advance := by
  change execLdVxKey x s = .next t at h
  cases hk : s.lowestKey <;> rw [execLdVxKey, hk] at h <;> cases h
  · exact .inl ⟨rfl, rfl⟩
  · exact .inr ⟨_, rfl, rfl⟩

theorem addressOperand_toNat (nnn : Addr12) : (addressOperand nnn).toNat = nnn.toNat := by
  rw [addressOperand, BitVec.toNat_setWidth, Nat.mod_eq_of_lt (by omega)]

/-- The sum of `BNNN` never wraps (R153, D18). -/
theorem State.indexedTarget_toNat (s : State) (nnn : Addr12) :
    (s.indexedTarget nnn).toNat = nnn.toNat + (s.getV 0).toNat := by
  rw [State.indexedTarget, wordOperand, BitVec.toNat_add, addressOperand_toNat, BitVec.toNat_setWidth]
  omega

theorem lowNibble_eq {b : Byte} {k : Fin 16} (h : k.val = b.toNat % 16) : lowNibble b = k := by
  apply Fin.ext
  simp [lowNibble, h]

end Sys2Proof.Machine
end

section
/-! SUPPORT. The writers of every element of the state, of `pc` and of VF (spec 10_state.md R24, R37, R38). Each proof
treats apart the instructions with more than one way to end (`00EE`, `2NNN`, `FX0A`) and those that check addresses;
every other instruction has one next state. -/

namespace Sys2Proof.Machine

/-- Settles O15: the elements an instruction's next state shares with the state before. -/
theorem eachElementHasOnlyItsWriters : Obligations.EachElementHasOnlyItsWriters := by
  intro i s t h
  cases i
  case ret => obtain ⟨-, rfl⟩ := exec_ret_eq_next h; simp
  case call => obtain ⟨-, rfl⟩ := exec_call_eq_next h; simp
  case ldVxKey => obtain ⟨-, rfl⟩ | ⟨k, -, rfl⟩ := exec_ldVxKey_eq_next h <;> simp
  case drw | ldBcd | storeRegs | loadRegs => obtain ⟨-, ⟨⟩⟩ := checked_eq_next h; simp
  all_goals cases h; simp

/-! ## The program counter (R24) -/

/-- Settles O13: every instruction but skips, control transfer and the key wait ends in `State.advance`. -/
theorem programCounterAdvances : Obligations.ProgramCounterAdvances := by
  refine ⟨fun i s t h => ?_, fun rnd s t f h => ?_, fun s op hf hd hp => ?_⟩
  · cases i
    case seImm | sneImm | seReg | sneReg => cases h; simp
    case skp | sknp =>
      cases h
      intro k hk
      simp [lowNibble_eq hk]
    case jp nnn => cases h; exact addressOperand_toNat nnn
    case call nnn => obtain ⟨-, rfl⟩ := exec_call_eq_next h; exact addressOperand_toNat nnn
    case jpV0 nnn => cases h; exact s.indexedTarget_toNat nnn
    case ret => obtain ⟨-, rfl⟩ := exec_ret_eq_next h; rfl
    case ldVxKey =>
      obtain ⟨hk, rfl⟩ | ⟨k, hk, rfl⟩ := exec_ldVxKey_eq_next h
      · have hnone := State.lowestKey_eq_none.mp hk
        exact ⟨fun _ => rfl, fun ⟨k, hp⟩ => by simp [hnone k] at hp⟩
      · have hp := (State.lowestKey_eq_some.mp hk).1
        exact ⟨fun hnone => by simp [hnone k] at hp, fun _ => rfl⟩
    case drw | ldBcd | storeRegs | loadRegs => obtain ⟨-, ⟨⟩⟩ := checked_eq_next h; simp
    all_goals cases h; rfl
  · rcases portStep_cases rnd s with ⟨u, -, hu⟩ | ⟨g, -, hu⟩ | ⟨r, -, hu⟩ <;> rw [hu] at h <;> cases h
    rfl
  · exact ⟨s.advance, by simp [step, cycle, hf, hd, unknownOpcode, hp], rfl⟩

/-! ## VF (R38) -/

theorem shiftedOutRight_eq_decide (b : Byte) : shiftedOutRight b = decide (b.toNat % 2 = 1) := by
  simp [shiftedOutRight, BitVec.getLsbD, Nat.testBit_zero]

theorem shiftedOutLeft_eq_decide (b : Byte) : shiftedOutLeft b = decide (128 ≤ b.toNat) := by
  rw [shiftedOutLeft, ← BitVec.msb_eq_getLsbD_last b, BitVec.msb_eq_decide]

/-- The targets of a `DXYN` are the pixels the sprite covers (R202, R203). -/
theorem State.mem_drwTargets {s : State} {x y : Reg} {n : Fin 16} {k : PixelIndex} :
    k ∈ s.drwTargets x y n ↔ SpriteCovers s.cfg.drawEdge (fun r => s.peek (s.i.toNat + r)) n.val
      ((s.getV x).toNat % 64) ((s.getV y).toNat % 32) k := by
  simp only [State.drwTargets, mem_spriteTargets, mem_rowTargets, SpriteCovers, State.peekList, List.length_map,
    List.length_range, List.getElem_map, List.getElem_range, exists_prop, originX, originY, State.dataBase]
  refine exists_congr fun r => and_congr_right fun hr => exists_congr fun c => and_congr_right fun hc =>
    and_congr_right fun _ => ?_
  exact targetPixel_eq_some (by omega) (by omega)

/-- A `DXYN` collides exactly when the sprite covers a pixel that was set (R201, R203). -/
theorem State.drwResult_collision_iff_covers (s : State) (x y : Reg) (n : Fin 16) :
    (s.drwResult x y n).2 = true ↔ ∃ k, SpriteCovers s.cfg.drawEdge (fun r => s.peek (s.i.toNat + r)) n.val
      ((s.getV x).toNat % 64) ((s.getV y).toNat % 32) k ∧ s.disp.pixel k = true := by
  simp only [s.drwResult_collision, State.mem_drwTargets]

/-- Settles O14: the flag instructions write VF last, the others leave VF unless it is their destination. -/
theorem flagRegisterWriters : Obligations.FlagRegisterWriters := by
  intro i s t h
  cases i
  case addReg | subReg | subnReg => cases h; simp [flagByte, carryOf, borrowOf]
  case shrReg x y =>
    cases h
    show _ = if (s.shiftOperand x y).toNat % 2 = 1 then 1 else 0
    simp [flagByte, shiftedOutRight_eq_decide]
  case shlReg x y =>
    cases h
    show _ = if 128 ≤ (s.shiftOperand x y).toNat then 1 else 0
    simp [flagByte, shiftedOutLeft_eq_decide]
  case drw x y n =>
    obtain ⟨-, ⟨⟩⟩ := checked_eq_next h
    have hcollision := s.drwResult_collision_iff_covers x y n
    exact ⟨fun hc => by simp [hcollision.mpr hc, flagByte],
      fun hc => by simp [Bool.eq_false_iff.mpr (mt hcollision.mp hc), flagByte]⟩
  case ldImm | addImm | rnd | ldReg | orReg | andReg | xorReg | ldVxDt =>
    intro hx
    cases h
    simp [hx.symm]
  case ldVxKey =>
    intro hx
    obtain ⟨-, rfl⟩ | ⟨k, -, rfl⟩ := exec_ldVxKey_eq_next h <;> simp [hx.symm]
  case loadRegs x =>
    intro hx
    obtain ⟨-, ⟨⟩⟩ := checked_eq_next h
    have hlow : x.val < 15 := Nat.lt_of_le_of_ne (Nat.le_of_lt_succ x.isLt) fun he => hx (Fin.ext he)
    simp [hlow]
  case ret => obtain ⟨-, rfl⟩ := exec_ret_eq_next h; rfl
  case call => obtain ⟨-, rfl⟩ := exec_call_eq_next h; rfl
  case ldBcd | storeRegs => obtain ⟨-, ⟨⟩⟩ := checked_eq_next h; simp
  all_goals cases h; simp

end Sys2Proof.Machine
end

section
/-! SUPPORT. Two runs that differ at most in the sound timer and the redraw flag (spec 10_state.md R28, R31): every
shared operation and every instruction answers alike. -/

namespace Sys2Proof.Machine

/-- The two states are the same but for `ST` and `DRAW`. -/
def EqButSoundAndRedraw (t u : State) : Prop := { u with st := t.st, draw := t.draw } = t

section
variable (s : State) (b : Byte) (d : Bool)

theorem State.pokeList_withSoundAndRedraw (a : Nat) (bs : List Byte) :
    State.pokeList { s with st := b, draw := d } a bs = { s.pokeList a bs with st := b, draw := d } := by
  induction bs generalizing s a with
  | nil => rfl
  | cons c bs ih => exact ih (s.poke a c) (a + 1)

theorem agree_checked {R : State → State → Prop} {k k' : Result} (base n : Nat) (h : Agree R k k') :
    Agree R (checked base n k) (checked base n k') := by
  unfold checked
  split
  · rfl
  · exact h

theorem agree_skipIf (c : Bool) :
    Agree EqButSoundAndRedraw (.next (s.skipIf c)) (.next (State.skipIf { s with st := b, draw := d } c)) := by
  cases c <;> rfl

theorem agree_unknownOpcode (op : Word) :
    Agree EqButSoundAndRedraw (unknownOpcode op s) (unknownOpcode op { s with st := b, draw := d }) := by
  unfold unknownOpcode
  cases s.cfg.unknownPolicy <;> rfl

theorem agree_exec (i : Instr) :
    Agree EqButSoundAndRedraw (exec i s) (exec i { s with st := b, draw := d }) := by
  cases i
  case seImm | sneImm | seReg | sneReg | skp | sknp => exact agree_skipIf s b d _
  case ret =>
    simp only [exec, execRet, State.pop]
    by_cases h : 0 < s.sp.val
    · simp only [dif_pos h]
      rfl
    · simp only [dif_neg h]
      rfl
  case call =>
    simp only [exec, execCall, State.push]
    by_cases h : s.sp.val < 16
    · simp only [dif_pos h]
      rfl
    · simp only [dif_neg h]
      rfl
  case ldVxKey x =>
    have hkey : State.lowestKey { s with st := b, draw := d } = s.lowestKey := rfl
    simp only [exec, execLdVxKey, hkey]
    cases s.lowestKey <;> rfl
  case ldBcd | storeRegs =>
    refine agree_checked _ _ ?_
    simp only [State.pokeList_withSoundAndRedraw]
    rfl
  case loadRegs | drw =>
    refine agree_checked _ _ ?_
    rfl
  all_goals rfl

end

/-- Settles O16: fetch and policy are the same in both runs, and every instruction answers alike. -/
theorem soundTimerAndRedrawFlagAreNeverRead : Obligations.SoundTimerAndRedrawFlagAreNeverRead := by
  intro s b d
  have hfetch : State.fetch { s with st := b, draw := d } = s.fetch := rfl
  simp only [step, cycle, hfetch]
  cases s.fetch with
  | error f => rfl
  | ok op =>
    cases hd : decode op with
    | none =>
      simp only [hd]
      exact agree_unknownOpcode s b d op
    | some i =>
      simp only [hd]
      exact agree_exec s b d i

end Sys2Proof.Machine
end

section
/-! SUPPORT. The invariant (spec 10_state.md R25, 20_memory.md R60): it holds after reset, every step and every
transaction keeps it, so every reachable state satisfies it. -/

namespace Sys2Proof.Machine

/-- Settles O18. -/
theorem resetHasInv : Obligations.ResetHasInv := by
  have hreset (cfg : Config) : (State.resetWith cfg).Inv :=
    ⟨Memory.wf_reset cfg, show 0x200 ≤ 0x10FE by decide, fun k => by simp [State.resetWith]⟩
  exact ⟨hreset, hreset defaultConfig⟩

/-! ## One instruction -/

section
variable {i : Instr} {s t : State} (hinv : s.Inv) (h : exec i s = .next t)
include hinv h

/-- An instruction fetched inside memory leaves `pc` at most at the largest sum of `BNNN`, 0xFFF + 0xFF (R25). -/
theorem exec_pc_le (hpc : s.pc.toNat ≤ 0xFFE) : t.pc.toNat ≤ 0x10FE := by
  have hp := programCounterAdvances.1 i s t h
  have h2 : (s.pc + 2).toNat ≤ 0x10FE := by bv_omega
  have h4 : (s.pc + 4).toNat ≤ 0x10FE := by bv_omega
  cases i
  case jp | call | jpV0 => simp only at hp; omega
  case ret => exact hp ▸ Nat.le_trans (hinv.stack ⟨s.sp.val - 1, by omega⟩) (by decide)
  case seImm | sneImm | seReg | sneReg | skp | sknp =>
    cases h
    rw [State.skipIf_pc]
    split <;> assumption
  case ldVxKey =>
    obtain ⟨-, rfl⟩ | ⟨k, -, rfl⟩ := exec_ldVxKey_eq_next h
    · exact hinv.pc
    · exact h2
  all_goals exact hp ▸ h2

/-- The one write to the stack is the return address of a call fetched inside memory, at most 0xFFE + 2 (R25). -/
theorem exec_stack_le (hpc : s.pc.toNat ≤ 0xFFE) (k : Fin 16) : t.stack[k].toNat ≤ 0x1000 := by
  obtain ⟨-, -, hstack, -⟩ := eachElementHasOnlyItsWriters i s t h
  by_cases hs : t.stack = s.stack
  · exact hs ▸ hinv.stack k
  · obtain ⟨nnn, rfl⟩ := hstack hs
    obtain ⟨hsp, rfl⟩ := exec_call_eq_next h
    have h2 : (s.pc + 2).toNat ≤ 0x1000 := by bv_omega
    simp only [Fin.getElem_fin, Vector.getElem_set]
    split
    · exact h2
    · exact hinv.stack k

/-- The writers of memory store inside the range they have checked (R67). -/
theorem exec_memory_wf : Memory.wf t.cfg t.mem = true := by
  obtain ⟨-, -, -, -, -, hmem, -, -, -, hcfg, -⟩ := eachElementHasOnlyItsWriters i s t h
  by_cases hm : t.mem = s.mem
  · rw [hm, hcfg]
    exact hinv.memory
  · obtain ⟨x, rfl⟩ | ⟨x, rfl⟩ := hmem hm <;> obtain ⟨hrange, ⟨⟩⟩ := checked_eq_next h
    · have hlast := hrange 2 (by decide)
      exact State.wf_pokeList hinv.memory (by simp only [bcdDigits, List.length_cons, List.length_nil, memSize]; omega)
    · have hlast := hrange x.val (Nat.lt_succ_self _)
      have hlength : (s.lowRegs x).length = x.val + 1 := by simp [State.lowRegs, regCount]
      exact State.wf_pokeList hinv.memory (by simp only [hlength, memSize]; omega)

theorem exec_keepsInv (hpc : s.pc.toNat ≤ 0xFFE) : t.Inv :=
  ⟨exec_memory_wf hinv h, exec_pc_le hinv h hpc, exec_stack_le hinv h hpc⟩

end

/-! ## One step -/

/-- `CXNN` with the byte given, or an instruction as `exec` runs it (R12). -/
theorem execWith_eq_next {rnd : Byte} {i : Instr} {s t : State} (h : execWith rnd i s = .next t) :
    (∃ x b, t = ((s.setV x b).nextDraw).advance) ∨ exec i s = .next t := by
  unfold execWith at h
  split at h
  · cases h
    exact .inl ⟨_, _, rfl⟩
  · exact .inr h

/-- Everything a step that goes on can have done (R122): fetched inside memory, then passed over an undefined opcode,
drawn a random byte, or run an instruction. -/
theorem stepWith_eq_next {rnd : Byte} {s t : State} (h : stepWith rnd s = .next t) :
    s.pc.toNat ≤ 0xFFE ∧
    (t = s.advance ∨ (∃ x b, t = ((s.setV x b).nextDraw).advance) ∨ ∃ i, exec i s = .next t) := by
  have hpc : ∀ op, s.fetch = .ok op → s.pc.toNat ≤ 0xFFE := by
    intro op hf
    rcases s.fetch_cases with ⟨hpc, -⟩ | ⟨-, he⟩ | ⟨-, he⟩
    · exact hpc
    · simp [he] at hf
    · simp [he] at hf
  rw [stepWith] at h
  rcases cycle_cases (execWith rnd) s with ⟨f, -, hc⟩ | ⟨op, -, -, -, hc⟩ | ⟨op, hf, -, -, hc⟩ | ⟨op, i, hf, -, hc⟩ <;>
    rw [hc] at h
  · cases h
  · cases h
  · cases h
    exact ⟨hpc op hf, .inl rfl⟩
  · refine ⟨hpc op hf, .inr ?_⟩
    exact (execWith_eq_next h).imp_right fun he => ⟨i, he⟩

theorem stepWith_keepsInv {rnd : Byte} {s t : State} (hinv : s.Inv) (h : stepWith rnd s = .next t) : t.Inv := by
  obtain ⟨hpc, hstep⟩ := stepWith_eq_next h
  have h2 : (s.pc + 2).toNat ≤ 0x10FE := by bv_omega
  rcases hstep with rfl | ⟨x, b, rfl⟩ | ⟨i, hi⟩
  · exact ⟨hinv.memory, h2, hinv.stack⟩
  · exact ⟨hinv.memory, h2, hinv.stack⟩
  · exact exec_keepsInv hinv hi hpc

theorem stepWith_cfg {rnd : Byte} {s t : State} (h : stepWith rnd s = .next t) : t.cfg = s.cfg := by
  rcases (stepWith_eq_next h).2 with rfl | ⟨x, b, rfl⟩ | ⟨i, hi⟩
  · rfl
  · rfl
  · obtain ⟨-, -, -, -, -, -, -, -, -, hcfg, -⟩ := eachElementHasOnlyItsWriters i s t hi
    exact hcfg

/-- Settles O17: the step is the step with any byte, at the free byte. -/
theorem stepKeepsInv : Obligations.StepKeepsInv := by
  intro s t hinv h
  rw [← stepWith_randomByte] at h
  exact stepWith_keepsInv hinv h

/-! ## All transactions -/

theorem transact_keepsInv (x : Transaction) {s : State} (hinv : s.Inv) : (transact x s).2.Inv := by
  cases x with
  | reset =>
    have hreset := resetHasInv.1 s.cfg
    exact ⟨hreset.memory, hreset.pc, hreset.stack⟩
  | loadProgram bytes =>
    rcases portLoad_cases bytes s with ⟨hl, he⟩ | ⟨-, he⟩ <;> rw [he]
    · have hfits : 0x200 + bytes.length ≤ memSize := by simp only [progMax, memSize] at hl ⊢; omega
      exact ⟨State.wf_pokeList hinv.memory hfits, by simpa using hinv.pc, by simpa using hinv.stack⟩
    · exact hinv
  | step rnd =>
    rw [transact]
    rcases portStep_cases rnd s with ⟨t, ht, he⟩ | ⟨f, -, he⟩ | ⟨r, -, he⟩ <;> rw [he]
    · exact stepWith_keepsInv hinv ht
    · exact hinv
    · exact hinv
  | tickTimers | setKey | getDisplay | clearRedraw => exact ⟨hinv.memory, hinv.pc, hinv.stack⟩

theorem transact_cfg (x : Transaction) (s : State) : (transact x s).2.cfg = s.cfg := by
  cases x with
  | loadProgram bytes => rcases portLoad_cases bytes s with ⟨-, he⟩ | ⟨-, he⟩ <;> simp [he]
  | step rnd =>
    rw [transact]
    rcases portStep_cases rnd s with ⟨t, ht, he⟩ | ⟨f, -, he⟩ | ⟨r, -, he⟩ <;> rw [he]
    exact stepWith_cfg ht
  | reset | tickTimers | setKey | getDisplay | clearRedraw => rfl

theorem transactAll_keepsInv (xs : List Transaction) {s : State} (hinv : s.Inv) : (transactAll xs s).Inv := by
  induction xs generalizing s with
  | nil => exact hinv
  | cons x xs ih => exact ih (transact_keepsInv x hinv)

theorem transactAll_cfg (xs : List Transaction) (s : State) : (transactAll xs s).cfg = s.cfg := by
  induction xs generalizing s with
  | nil => rfl
  | cons x xs ih => exact (ih _).trans (transact_cfg x s)

/-- Settles O19, by induction on the transactions from the reset state. -/
theorem pcNeverExceeds0x10FE : Obligations.PcNeverExceeds0x10FE := by
  refine ⟨fun x s => transact_keepsInv x, transact_cfg, ?_, fun cfg xs => transactAll_cfg xs _⟩
  rintro s ⟨cfg, xs, rfl⟩
  exact transactAll_keepsInv xs (resetHasInv.1 cfg)

end Sys2Proof.Machine
end

section
/-! SUPPORT. Fetching the two bytes at `pc`, and an opcode placed there (spec 20_memory.md R63, R73,
40_step_cycle_and_ports.md R122). -/

namespace Sys2Proof

/-! ## The two bytes of an opcode given as a number (R63) -/

theorem extractLsb'_high_ofNat (w : Nat) : (BitVec.ofNat 16 w).extractLsb' 8 8 = BitVec.ofNat 8 (w / 256) := by
  apply BitVec.eq_of_toNat_eq
  rw [BitVec.extractLsb'_toNat, Nat.shiftRight_eq_div_pow, BitVec.toNat_ofNat, BitVec.toNat_ofNat]
  omega

theorem extractLsb'_low_ofNat (w : Nat) : (BitVec.ofNat 16 w).extractLsb' 0 8 = BitVec.ofNat 8 w := by
  apply BitVec.eq_of_toNat_eq
  rw [BitVec.extractLsb'_toNat, Nat.shiftRight_zero, BitVec.toNat_ofNat, BitVec.toNat_ofNat]
  omega

theorem composeOpcode_ofNat (w : Nat) :
    composeOpcode (BitVec.ofNat 8 (w / 256)) (BitVec.ofNat 8 w) = BitVec.ofNat 16 w := by
  rw [← extractLsb'_high_ofNat, ← extractLsb'_low_ofNat]
  exact word_eq_bytes _

theorem tableWordBytes_sixteen (w : Nat) :
    tableWordBytes 16 w = [BitVec.ofNat 8 (w / 256), BitVec.ofNat 8 w] := by
  have hmod : BitVec.ofNat 16 (w % 2 ^ 16) = BitVec.ofNat 16 w := BitVec.eq_of_toNat_eq (by simp)
  rw [tableWordBytes, ← extractLsb'_high_ofNat, ← extractLsb'_low_ofNat (w % 2 ^ 16), hmod, extractLsb'_high_ofNat,
    extractLsb'_low_ofNat]

theorem decodeTableWord_sixteen (w : Nat) : decodeTableWord 16 w = decode (BitVec.ofNat 16 w) := by
  rw [decodeTableWord, tableWordBytes_sixteen, decodeBytes, composeOpcode_ofNat]
  cases decode (BitVec.ofNat 16 w) <;> rfl

end Sys2Proof

namespace Sys2Proof.Machine

/-! ## Fetch inside memory (R63, R66) -/

theorem State.fetch_of_inRange {s : State} (hpc : s.pc.toNat ≤ 0xFFE) :
    s.fetch = .ok (s.peek s.pc.toNat ++ s.peek (s.pc.toNat + 1)) := by
  rcases s.fetch_cases with ⟨-, hf⟩ | ⟨h, -⟩ | ⟨h, -⟩
  · exact hf
  · omega
  · omega

/-- Settles O5: the opcode is its high byte above its low byte, and a step adds nothing around `exec`. -/
theorem stepRunsTheInstructionAtPc : Obligations.StepRunsTheInstructionAtPc := by
  intro s op hpc hhigh hlow
  have hfetch : s.fetch = .ok op := by
    rw [State.fetch_of_inRange hpc, ← hhigh, ← hlow, word_eq_bytes]
  exact ⟨hfetch, fun i hd => cycle_of_decode exec hfetch hd⟩

/-! ## Storing bytes and placing an opcode at `pc` (R63, R73; log entry 4) -/

/-- Storing consecutive bytes changes memory alone. -/
theorem State.changesOnly_pokeList (s : State) (a : Nat) (bs : List Byte) :
    ChangesOnly [.memory] s (s.pokeList a bs) := by
  intro p hp
  cases p
  case memory => exact absurd (List.mem_singleton_self _) hp
  all_goals simp [samePart, State.keyPressed]

/-- With `pc` inside memory, placing an opcode stores its two bytes at `pc` and `pc + 1`. -/
theorem State.withFetchWord_sixteen {s : State} (hpc : s.pc.toNat ≤ 0xFFE) (w : Nat) :
    s.withFetchWord 16 w = s.pokeList s.pc.toNat [BitVec.ofNat 8 (w / 256), BitVec.ofNat 8 w] := by
  rw [State.withFetchWord, placeTableWord, if_pos (by rw [memSize]; omega), tableWordBytes_sixteen]

section
variable {s : State} (hwf : Memory.wf s.cfg s.mem = true)
include hwf

/-- A read after storing two bytes at consecutive addresses inside memory. -/
theorem State.peek_pokeList_pair {a : Nat} (ha : a ≤ 0xFFE) (hi lo : Byte) :
    (s.pokeList a [hi, lo]).peek a = hi ∧ (s.pokeList a [hi, lo]).peek (a + 1) = lo ∧
      ∀ a', a' ≠ a → a' ≠ a + 1 → (s.pokeList a [hi, lo]).peek a' = s.peek a' := by
  have hread := State.peek_pokeList hwf (a := a) (bs := [hi, lo])
    (by simp only [List.length_cons, List.length_nil, memSize]; omega)
  refine ⟨by simp [hread], by simp [hread], fun a' h0 h1 => ?_⟩
  rw [hread, if_neg (by simp only [List.length_cons, List.length_nil]; omega)]

/-- The two bytes stored at `pc` are the next opcode (R73). -/
theorem State.fetch_pokeList_pair (hpc : s.pc.toNat ≤ 0xFFE) (hi lo : Byte) :
    (s.pokeList s.pc.toNat [hi, lo]).fetch = .ok (hi ++ lo) := by
  obtain ⟨hhigh, hlow, -⟩ := State.peek_pokeList_pair hwf hpc hi lo
  rw [State.fetch_of_inRange (by rwa [State.pokeList_pc]), State.pokeList_pc, hhigh, hlow]

theorem State.fetch_withFetchWord (hpc : s.pc.toNat ≤ 0xFFE) (w : Nat) :
    (s.withFetchWord 16 w).fetch = .ok (BitVec.ofNat 16 w) := by
  rw [State.withFetchWord_sixteen hpc, State.fetch_pokeList_pair hwf hpc]
  exact congrArg _ (composeOpcode_ofNat w)

end

/-- Settles O56: both ways of storing two bytes at `pc` are `State.pokeList`. -/
theorem storedInstructionIsFetchedNext : Obligations.StoredInstructionIsFetchedNext := by
  intro s hwf hpc
  refine ⟨State.fetch_pokeList_pair hwf hpc, fun w => ?_⟩
  have hplaced := State.withFetchWord_sixteen hpc w
  have hfetch := State.fetch_withFetchWord hwf hpc w
  obtain ⟨hhigh, hlow, hframe⟩ := State.peek_pokeList_pair hwf hpc (BitVec.ofNat 8 (w / 256)) (BitVec.ofNat 8 w)
  rw [← hplaced] at hhigh hlow hframe
  exact ⟨hplaced ▸ s.changesOnly_pokeList _ _, hhigh, hlow, hfetch, hframe,
    fun i hd => cycle_of_decode exec hfetch hd, decodeTableWord_sixteen w⟩

end Sys2Proof.Machine
end

section
/-! SUPPORT. The decoder, the encoder and the opcode map agree (spec 30_encoding.md R91 to R97): decoding undoes
encoding, encoding undoes decoding, and a word selected by a row of the map is the encoding of an instruction of that
row. -/

namespace Sys2Proof

/-! ## Decode of encode (R91, R95) -/

/-- The fields of an encoded opcode lead the decoder back along the instruction's own branch of R94. -/
theorem decode_encode (i : Instr) : decode (encode i) = some i := by
  cases i with
  | cls | ret => rfl
  | jp | call | ldI | jpV0 => simp [encode, decode]
  | seImm | sneImm | ldImm | addImm | rnd | drw => simp [encode, decode]
  | seReg | sneReg => simp [encode, decode, decodeXY0]
  | ldReg | orReg | andReg | xorReg | addReg | subReg | shrReg | subnReg | shlReg =>
    simp [encode, decode, decodeAlu]
  | skp | sknp => simp [encode, decode, decodeKeySkip]
  | ldVxDt | ldVxKey | ldDtVx | ldStVx | addI | ldFont | ldBcd | storeRegs | loadRegs =>
    simp [encode, decode, decodeMisc]

/-- The two bytes of an instruction at the head of a byte sequence decode to it and leave the rest (R63, R90). -/
theorem decodeBytes_encodeBytes (i : Instr) (rest : List Byte) :
    decodeBytes (encodeBytes i ++ rest) = .ok (i, rest) := by
  simp [encodeBytes, decodeBytes, composeOpcode, word_eq_bytes, decode_encode]

/-- Settles O1: the round trip through the opcode, and through its two bytes. -/
theorem decodeOfEncodeIsTheInstruction : Obligations.DecodeOfEncodeIsTheInstruction :=
  fun i rest => ⟨decode_encode i, decodeBytes_encodeBytes i rest⟩

/-! ## Encode of decode (R97) -/

section
variable {op : Word} {major : BitVec 4} (hmajor : opMajor op = major)
include hmajor

theorem encodeNNN_of_fields : encodeNNN major (opNNN op) = op := hmajor ▸ encodeNNN_fields op

theorem encodeXNN_of_fields {nn : Byte} (hnn : opNN op = nn) : encodeXNN major (opX op) nn = op :=
  hmajor ▸ hnn ▸ encodeXNN_fields op

theorem encodeXYN_of_fields {n : BitVec 4} (hn : opN op = n) : encodeXYN major (opX op) (opY op) n = op :=
  hmajor ▸ hn ▸ encodeXYN_fields op

end

section
variable {op : Word} {i : Instr}

theorem encode_of_decodeFixed (h : decodeFixed op = some i) : encode i = op := by
  unfold decodeFixed at h
  split_ifs at h with hcls hret <;> cases h
  · exact hcls.symm
  · exact hret.symm

theorem encode_of_decodeXY0 {form : Reg → Reg → Instr}
    (hform : ∀ x y, encode (form x y) = encodeXYN (opMajor op) x y 0x0#4) (h : decodeXY0 op form = some i) :
    encode i = op := by
  unfold decodeXY0 at h
  split_ifs at h with hn
  cases h
  exact (hform _ _).trans (encodeXYN_of_fields rfl hn)

theorem encode_of_decodeAlu (hmajor : opMajor op = 0x8#4) (h : decodeAlu op = some i) : encode i = op := by
  unfold decodeAlu at h
  split at h <;> cases h <;> exact encodeXYN_of_fields hmajor ‹_›

theorem encode_of_decodeKeySkip (hmajor : opMajor op = 0xE#4) (h : decodeKeySkip op = some i) : encode i = op := by
  unfold decodeKeySkip at h
  split at h <;> cases h <;> exact encodeXNN_of_fields hmajor ‹_›

theorem encode_of_decodeMisc (hmajor : opMajor op = 0xF#4) (h : decodeMisc op = some i) : encode i = op := by
  unfold decodeMisc at h
  split at h <;> cases h <;> exact encodeXNN_of_fields hmajor ‹_›

/-- In every branch of R94 the fields the decoder tests and the fields it reads make up the whole opcode. The case of
the family with top nibble `k` is the one numbered `k + 1`. -/
theorem encode_of_decode (h : decode op = some i) : encode i = op := by
  unfold decode at h
  split at h
  case h_1 => exact encode_of_decodeFixed h
  case h_6 hmajor => exact encode_of_decodeXY0 (fun _ _ => hmajor ▸ rfl) h
  case h_9 hmajor => exact encode_of_decodeAlu hmajor h
  case h_10 hmajor => exact encode_of_decodeXY0 (fun _ _ => hmajor ▸ rfl) h
  case h_14 hmajor => cases h; exact encodeXYN_of_fields hmajor rfl
  case h_15 hmajor => exact encode_of_decodeKeySkip hmajor h
  case h_16 hmajor => exact encode_of_decodeMisc hmajor h
  case h_2 hmajor | h_3 hmajor | h_11 hmajor | h_12 hmajor => cases h; exact encodeNNN_of_fields hmajor
  case h_4 hmajor | h_5 hmajor | h_7 hmajor | h_8 hmajor | h_13 hmajor =>
    cases h; exact encodeXNN_of_fields hmajor rfl
  case h_17 => cases h

end

/-- Every instruction's word is selected by its own row, which stands in the opcode map (R95). -/
theorem Instr.tableRow : ∀ i : Instr, Laws.TableRow.Statement i
  | .cls => Laws.TableRow.cls
  | .ret => Laws.TableRow.ret
  | .jp _ => Laws.TableRow.jp _
  | .call _ => Laws.TableRow.call _
  | .seImm _ _ => Laws.TableRow.seImm _ _
  | .sneImm _ _ => Laws.TableRow.sneImm _ _
  | .seReg _ _ => Laws.TableRow.seReg _ _
  | .ldImm _ _ => Laws.TableRow.ldImm _ _
  | .addImm _ _ => Laws.TableRow.addImm _ _
  | .ldReg _ _ => Laws.TableRow.ldReg _ _
  | .orReg _ _ => Laws.TableRow.orReg _ _
  | .andReg _ _ => Laws.TableRow.andReg _ _
  | .xorReg _ _ => Laws.TableRow.xorReg _ _
  | .addReg _ _ => Laws.TableRow.addReg _ _
  | .subReg _ _ => Laws.TableRow.subReg _ _
  | .shrReg _ _ => Laws.TableRow.shrReg _ _
  | .subnReg _ _ => Laws.TableRow.subnReg _ _
  | .shlReg _ _ => Laws.TableRow.shlReg _ _
  | .sneReg _ _ => Laws.TableRow.sneReg _ _
  | .ldI _ => Laws.TableRow.ldI _
  | .jpV0 _ => Laws.TableRow.jpV0 _
  | .rnd _ _ => Laws.TableRow.rnd _ _
  | .drw _ _ _ => Laws.TableRow.drw _ _ _
  | .skp _ => Laws.TableRow.skp _
  | .sknp _ => Laws.TableRow.sknp _
  | .ldVxDt _ => Laws.TableRow.ldVxDt _
  | .ldVxKey _ => Laws.TableRow.ldVxKey _
  | .ldDtVx _ => Laws.TableRow.ldDtVx _
  | .ldStVx _ => Laws.TableRow.ldStVx _
  | .addI _ => Laws.TableRow.addI _
  | .ldFont _ => Laws.TableRow.ldFont _
  | .ldBcd _ => Laws.TableRow.ldBcd _
  | .storeRegs _ => Laws.TableRow.storeRegs _
  | .loadRegs _ => Laws.TableRow.loadRegs _

/-- Settles O2: no branch of the decoder drops a bit of the opcode, and every instruction has its row. -/
theorem encodeOfDecodeIsTheOpcode : Obligations.EncodeOfDecodeIsTheOpcode :=
  fun _ i h => ⟨encode_of_decode h, i.tableRow.2⟩

/-! ## The opcode map (R95, R96) -/

/-- A field of a word is fixed by a row whose mask covers the field. -/
theorem extractLsb'_of_selects {mask value op : Word} (start len : Nat)
    (hmask : mask.extractLsb' start len = BitVec.allOnes len) (h : OpcodeRow.selects ⟨mask, value⟩ op = true) :
    op.extractLsb' start len = value.extractLsb' start len := by
  have hand : op &&& mask = value := eq_of_beq h
  rw [← hand, BitVec.extractLsb'_and, hmask, BitVec.and_allOnes]

/-! The value of a row is the encoding of its pattern with every operand 0; its mask leaves the operands open. -/

section
variable {op : Word} {major : BitVec 4}

theorem opMajor_of_selects {mask value : Word} (hmask : opMajor mask = 0xF#4)
    (h : OpcodeRow.selects ⟨mask, value⟩ op = true) : opMajor op = opMajor value :=
  extractLsb'_of_selects 12 4 hmask h

/-- A word selected by a row of format NNN. -/
theorem encodeNNN_of_selects (h : OpcodeRow.selects ⟨0xF000#16, encodeNNN major 0⟩ op = true) :
    encodeNNN major (opNNN op) = op :=
  encodeNNN_of_fields ((opMajor_of_selects rfl h).trans (opMajor_encodeNNN _ _))

/-- A word selected by a row of format XNN. -/
theorem encodeXNN_of_selects (h : OpcodeRow.selects ⟨0xF000#16, encodeXNN major 0 0⟩ op = true) :
    encodeXNN major (opX op) (opNN op) = op :=
  encodeXNN_of_fields ((opMajor_of_selects rfl h).trans (opMajor_encodeXNN _ _ _)) rfl

/-- A word selected by a row of format XKK. -/
theorem encodeXNN_of_selects_low {nn : Byte} (h : OpcodeRow.selects ⟨0xF0FF#16, encodeXNN major 0 nn⟩ op = true) :
    encodeXNN major (opX op) nn = op :=
  encodeXNN_of_fields ((opMajor_of_selects rfl h).trans (opMajor_encodeXNN _ _ _))
    ((extractLsb'_of_selects 0 8 rfl h).trans (opNN_encodeXNN _ _ _))

/-- A word selected by a row of format XYN with a minor opcode. -/
theorem encodeXYN_of_selects {n : BitVec 4} (h : OpcodeRow.selects ⟨0xF00F#16, encodeXYN major 0 0 n⟩ op = true) :
    encodeXYN major (opX op) (opY op) n = op :=
  encodeXYN_of_fields ((opMajor_of_selects rfl h).trans (opMajor_encodeXYN _ _ _ _))
    ((extractLsb'_of_selects 0 4 rfl h).trans (opN_encodeXYN _ _ _ _))

/-- A word selected by the row `DXYN`, whose low nibble is an operand. -/
theorem encodeXYN_of_selects_major (h : OpcodeRow.selects ⟨0xF000#16, encodeXYN major 0 0 0⟩ op = true) :
    encodeXYN major (opX op) (opY op) (opN op) = op :=
  encodeXYN_of_fields ((opMajor_of_selects rfl h).trans (opMajor_encodeXYN _ _ _ _)) rfl

/-- A word selected by a row without operands. -/
theorem eq_of_selects {value : Word} (h : OpcodeRow.selects ⟨0xFFFF#16, value⟩ op = true) : value = op :=
  (eq_of_beq h).symm.trans (BitVec.and_allOnes (x := op))

end

/-- The word is the encoding of an instruction of the row. -/
def OpcodeRow.Encodes (r : OpcodeRow) (op : Word) : Prop := ∃ i : Instr, encode i = op ∧ i.row = r

section
variable (op : Word)

theorem encodes_of_selects_low : ∀ r ∈ opcodeRowsLow, r.selects op = true → r.Encodes op := by
  simp only [opcodeRowsLow, List.forall_mem_cons]
  exact ⟨fun h => ⟨.cls, eq_of_selects h, rfl⟩,
    fun h => ⟨.ret, eq_of_selects h, rfl⟩,
    fun h => ⟨.jp (opNNN op), encodeNNN_of_selects h, rfl⟩,
    fun h => ⟨.call (opNNN op), encodeNNN_of_selects h, rfl⟩,
    fun h => ⟨.seImm (opX op) (opNN op), encodeXNN_of_selects h, rfl⟩,
    fun h => ⟨.sneImm (opX op) (opNN op), encodeXNN_of_selects h, rfl⟩,
    fun h => ⟨.seReg (opX op) (opY op), encodeXYN_of_selects h, rfl⟩,
    fun h => ⟨.ldImm (opX op) (opNN op), encodeXNN_of_selects h, rfl⟩,
    fun h => ⟨.addImm (opX op) (opNN op), encodeXNN_of_selects h, rfl⟩,
    List.forall_mem_nil _⟩

theorem encodes_of_selects_alu : ∀ r ∈ opcodeRowsAlu, r.selects op = true → r.Encodes op := by
  simp only [opcodeRowsAlu, List.forall_mem_cons]
  exact ⟨fun h => ⟨.ldReg (opX op) (opY op), encodeXYN_of_selects h, rfl⟩,
    fun h => ⟨.orReg (opX op) (opY op), encodeXYN_of_selects h, rfl⟩,
    fun h => ⟨.andReg (opX op) (opY op), encodeXYN_of_selects h, rfl⟩,
    fun h => ⟨.xorReg (opX op) (opY op), encodeXYN_of_selects h, rfl⟩,
    fun h => ⟨.addReg (opX op) (opY op), encodeXYN_of_selects h, rfl⟩,
    fun h => ⟨.subReg (opX op) (opY op), encodeXYN_of_selects h, rfl⟩,
    fun h => ⟨.shrReg (opX op) (opY op), encodeXYN_of_selects h, rfl⟩,
    fun h => ⟨.subnReg (opX op) (opY op), encodeXYN_of_selects h, rfl⟩,
    fun h => ⟨.shlReg (opX op) (opY op), encodeXYN_of_selects h, rfl⟩,
    fun h => ⟨.sneReg (opX op) (opY op), encodeXYN_of_selects h, rfl⟩,
    List.forall_mem_nil _⟩

theorem encodes_of_selects_high : ∀ r ∈ opcodeRowsHigh, r.selects op = true → r.Encodes op := by
  simp only [opcodeRowsHigh, List.forall_mem_cons]
  exact ⟨fun h => ⟨.ldI (opNNN op), encodeNNN_of_selects h, rfl⟩,
    fun h => ⟨.jpV0 (opNNN op), encodeNNN_of_selects h, rfl⟩,
    fun h => ⟨.rnd (opX op) (opNN op), encodeXNN_of_selects h, rfl⟩,
    fun h => ⟨.drw (opX op) (opY op) (opN op).toFin, encodeXYN_of_selects_major h, rfl⟩,
    fun h => ⟨.skp (opX op), encodeXNN_of_selects_low h, rfl⟩,
    fun h => ⟨.sknp (opX op), encodeXNN_of_selects_low h, rfl⟩,
    fun h => ⟨.ldVxDt (opX op), encodeXNN_of_selects_low h, rfl⟩,
    fun h => ⟨.ldVxKey (opX op), encodeXNN_of_selects_low h, rfl⟩,
    fun h => ⟨.ldDtVx (opX op), encodeXNN_of_selects_low h, rfl⟩,
    fun h => ⟨.ldStVx (opX op), encodeXNN_of_selects_low h, rfl⟩,
    fun h => ⟨.addI (opX op), encodeXNN_of_selects_low h, rfl⟩,
    fun h => ⟨.ldFont (opX op), encodeXNN_of_selects_low h, rfl⟩,
    fun h => ⟨.ldBcd (opX op), encodeXNN_of_selects_low h, rfl⟩,
    fun h => ⟨.storeRegs (opX op), encodeXNN_of_selects_low h, rfl⟩,
    fun h => ⟨.loadRegs (opX op), encodeXNN_of_selects_low h, rfl⟩,
    List.forall_mem_nil _⟩

end

section
variable {op : Word}

/-- A word that a row of the map selects is the encoding of an instruction of that row. -/
theorem encodes_of_selects {r : OpcodeRow} (hr : r ∈ opcodeTable) (h : r.selects op = true) : r.Encodes op := by
  rw [opcodeTable, List.mem_append, List.mem_append] at hr
  rcases hr with (hlow | halu) | hhigh
  · exact encodes_of_selects_low op r hlow h
  · exact encodes_of_selects_alu op r halu h
  · exact encodes_of_selects_high op r hhigh h

theorem row_mem_opcodeTable (i : Instr) : i.row ∈ opcodeTable := List.contains_iff_mem.1 i.tableRow.2

/-- The row of the decoded instruction selects the opcode. -/
theorem row_selects_of_decode {i : Instr} (h : decode op = some i) : i.row.selects op = true :=
  encode_of_decode h ▸ i.tableRow.1

/-- A row that selects the opcode is the row of the decoded instruction: `decode` is a function. -/
theorem eq_row_of_selects {i : Instr} (hd : decode op = some i) {r : OpcodeRow} (hr : r ∈ opcodeTable)
    (h : r.selects op = true) : r = i.row := by
  obtain ⟨j, rfl, rfl⟩ := encodes_of_selects hr h
  rw [Option.some.inj ((decode_encode j).symm.trans hd)]

theorem decode_eq_none_iff : decode op = none ↔ wellFormedWord op = false := by
  rw [wellFormedWord, List.any_eq_false]
  constructor
  · intro hnone r hr h
    obtain ⟨i, rfl, -⟩ := encodes_of_selects hr h
    simp [decode_encode] at hnone
  · intro hrows
    cases hd : decode op with
    | none => rfl
    | some i => exact absurd (row_selects_of_decode hd) (hrows i.row (row_mem_opcodeTable i))

end

/-- Settles O3: a word that a row selects encodes an instruction of that row, and the decoder gives that
instruction back. -/
theorem decoderAgreesWithTheOpcodeMap : Obligations.DecoderAgreesWithTheOpcodeMap :=
  fun _ => ⟨decode_eq_none_iff, fun _ hd _ hr =>
    ⟨eq_row_of_selects hd hr, fun hrow => hrow ▸ row_selects_of_decode hd⟩⟩

/-- Settles O4: six of the words are what the encoder gives, and no row of the map selects the seventh. -/
theorem writtenOutWordsDecode : Obligations.WrittenOutWordsDecode :=
  ⟨decode_encode (.ldImm 10 0x2F), decode_encode (.addReg 0 1), decode_encode (.drw 0 1 5),
    decode_encode (.storeRegs 2), decode_encode .ret, decode_encode (.skp 3), decode_eq_none_iff.2 (by decide)⟩

end Sys2Proof
end

section
/-! SUPPORT. What the ports tell the host (spec 40_step_cycle_and_ports.md R121 to R128): the outcome of a step, the
answers of a failed transaction, the keys and the redraw flag. -/

namespace Sys2Proof

/-! ## The opcodes of the display instructions (R95, R123) -/

theorem encode_injective : Function.Injective encode := fun i j h =>
  Option.some.inj ((decode_encode i).symm.trans (h ▸ decode_encode j))

/-- Every opcode of family 0xD is defined (R94). -/
theorem decode_of_opMajor_eq_0xD {op : Word} (h : opMajor op = 0xD#4) :
    decode op = some (.drw (opX op) (opY op) (opN op).toFin) := by
  simp [decode, h]

end Sys2Proof

namespace Sys2Proof.Machine

/-- The display instructions are `00E0` and family 0xD. -/
theorem displayInstr_iff (i : Instr) : displayInstr i = true ↔ i = .cls ∨ opMajor (encode i) = 0xD#4 := by
  cases i
  case cls | ret => decide
  all_goals simp [displayInstr, encode]

/-! ## The outcome of a step (R123) -/

section
variable {s : State} {op : Word} (hf : s.fetch = .ok op)
include hf

theorem displayChanged_of_decode {i : Instr} (hd : decode op = some i) : displayChanged s = displayInstr i := by
  simp [displayChanged, hf, hd]

theorem displayChanged_of_undefined (hd : decode op = none) : displayChanged s = false := by
  simp [displayChanged, hf, hd]

theorem skipReport_of_decode {i : Instr} (hd : decode op = some i) : skipReport s = none := by
  simp [skipReport, hf, hd]

theorem skipReport_of_undefined (hd : decode op = none) : skipReport s = some (op, s.pc) := by
  simp [skipReport, hf, hd]

/-- A defined opcode is the encoding of its instruction; `00E0` and family 0xD are all defined. -/
theorem displayChanged_iff : displayChanged s = true ↔ op = 0x00E0#16 ∨ opMajor op = 0xD#4 := by
  cases hd : decode op with
  | some i =>
    obtain rfl := encode_of_decode hd
    have hcls : encode i = 0x00E0#16 ↔ i = .cls := encode_injective.eq_iff (b := .cls)
    rw [displayChanged_of_decode hf hd, displayInstr_iff, hcls]
  | none =>
    rw [displayChanged_of_undefined hf hd]
    refine iff_of_false Bool.false_ne_true ?_
    rintro (rfl | hmajor)
    · cases hd.symm.trans (decode_encode .cls)
    · cases hd.symm.trans (decode_of_opMajor_eq_0xD hmajor)

end

theorem toneActive_iff (s : State) : toneActive s = true ↔ s.st ≠ 0 := bne_iff_ne

theorem portStep_of_next {rnd : Byte} {s t : State} (h : stepWith rnd s = .next t) :
    portStep rnd s = (.stepped (stepOutcome s t), t) := by
  simp [portStep, h]

theorem portStep_of_fault {rnd : Byte} {s : State} {f : Fault} (h : stepWith rnd s = .fault f) :
    portStep rnd s = (.stepFailed f, s) := by
  simp [portStep, h]

/-- The port answers `Ok` only for a step that goes on, and then with that step's outcome. -/
theorem stepWith_of_stepped {rnd : Byte} {s t : State} {o : StepOutcome} (h : portStep rnd s = (.stepped o, t)) :
    stepWith rnd s = .next t ∧ o = stepOutcome s t := by
  rcases portStep_cases rnd s with ⟨u, hu, he⟩ | ⟨f, -, he⟩ | ⟨r, -, he⟩ <;> rw [he] at h <;> cases h
  exact ⟨hu, rfl⟩

/-- Settles O11: a step that goes on has fetched its opcode inside memory, and the fields of the outcome depend on that
opcode and on the sound timer after the step. -/
theorem stepOutcomeTellsTheHost : Obligations.StepOutcomeTellsTheHost := by
  refine ⟨fun rnd s t h => ⟨_, portStep_of_next h⟩, fun rnd s f h => portStep_of_fault h, fun rnd s t o h => ?_⟩
  obtain ⟨hnext, rfl⟩ := stepWith_of_stepped h
  have hfetch := State.fetch_of_inRange (stepWith_eq_next hnext).1
  refine ⟨hnext, _, hfetch, displayChanged_iff hfetch, toneActive_iff t, skipReport_of_undefined hfetch, fun hd => ?_⟩
  obtain ⟨i, hi⟩ := Option.isSome_iff_exists.mp hd
  exact skipReport_of_decode hfetch hi

/-! ## Failed transactions (R124, R255, R292) -/

/-- Only the step and the load ports can answer an error, and both then answer with the state they were given. -/
theorem transact_state_of_error {x : Transaction} {s : State} (h : (transact x s).1.ok = false) :
    (transact x s).2 = s := by
  cases x with
  | loadProgram bytes =>
    rcases portLoad_cases bytes s with ⟨-, he⟩ | ⟨-, he⟩ <;> rw [he] at h ⊢
    cases h
  | step rnd =>
    rw [transact] at h ⊢
    rcases portStep_cases rnd s with ⟨t, -, he⟩ | ⟨f, -, he⟩ | ⟨r, -, he⟩ <;> rw [he] at h ⊢
    cases h
  | reset | tickTimers | setKey | getDisplay | clearRedraw => cases h

/-- Settles O10: a transaction's answer depends on the state alone, and an error leaves the state. -/
theorem errorsLeaveTheStateUnchanged : Obligations.ErrorsLeaveTheStateUnchanged := by
  intro x s h
  have hstate := transact_state_of_error h
  exact ⟨hstate, by rw [hstate]⟩

/-! ## The keys and the redraw flag (R126, R127) -/

theorem keyPressed_portSetKey (k j : Key) (p : Bool) (s : State) :
    (portSetKey k p s).keyPressed j = if k = j then p else s.keyPressed j := by
  simp [State.keyPressed, portSetKey, Vector.getElem_set, Fin.ext_iff]

theorem changesOnly_portSetKey (k : Key) (p : Bool) (s : State) : ChangesOnly [.keys] s (portSetKey k p s) := by
  intro q hq
  cases q
  case keys => exact absurd (List.mem_singleton_self _) hq
  case regs | memory | display => exact fun _ => rfl
  all_goals rfl

theorem changesOnly_portClearRedraw (s : State) : ChangesOnly [.redraw] s (portClearRedraw s) := by
  intro q hq
  cases q
  case redraw => exact absurd (List.mem_singleton_self _) hq
  case regs | memory | display | keys => exact fun _ => rfl
  all_goals rfl

/-- Settles O60: two ports write one field each, which is read back and framed; `getDisplay` only reads. -/
theorem hostReadsAndWritesItsOwn : Obligations.HostReadsAndWritesItsOwn := by
  refine ⟨fun k p s => ⟨portSetKey k p s, rfl, ?_, fun j hj => ?_, changesOnly_portSetKey k p s⟩,
    fun s => ⟨portClearRedraw s, rfl, rfl, changesOnly_portClearRedraw s⟩, fun s => rfl⟩
  · rw [keyPressed_portSetKey, if_pos rfl]
  · rw [keyPressed_portSetKey, if_neg hj.symm]

end Sys2Proof.Machine
end

section
/-! SUPPORT. Control transfer (spec 41_control_transfer.md): what `00EE`, `1NNN`, `2NNN` and `BNNN` write, when the two
stack errors are raised, and that a return undoes a call. -/

namespace Sys2Proof

/-- An opcode that encodes an instruction decodes to it (R97). -/
theorem decode_of_encode {op : Word} {i : Instr} (h : encode i = op) : decode op = some i := h ▸ decode_encode i

end Sys2Proof

namespace Sys2Proof.Machine

/-! ## The frame of control transfer -/

/-- Control transfer writes `pc`, and `sp` and the stack only where the frame lists them. -/
theorem State.changesOnly_withPcSpStack (s : State) (w : Word) {n : Fin 17} {st : Vector Word 16} {ps : List Part}
    (hpc : .pc ∈ ps) (hsp : n = s.sp ∨ .sp ∈ ps) (hstack : st = s.stack ∨ .stack ∈ ps) :
    ChangesOnly ps s { s with pc := w, sp := n, stack := st } := by
  intro p hp
  cases p
  case pc => exact absurd hpc hp
  case sp => exact hsp.resolve_right hp
  case stack => exact hstack.resolve_right hp
  case regs | memory | display | keys => exact fun _ => rfl
  all_goals rfl

theorem State.changesOnly_setPc (s : State) (w : Word) : ChangesOnly [.pc] s (s.setPc w) :=
  s.changesOnly_withPcSpStack w (by simp) (.inl rfl) (.inl rfl)

/-! ## Return and call, both ways to end (R150, R152, R252, R253) -/

theorem exec_ret_of_pos {s : State} (h : 0 < s.sp.val) :
    exec .ret s = .next { s with pc := s.stack[s.sp.val - 1], sp := ⟨s.sp.val - 1, by omega⟩ } := by
  show execRet s = _
  rcases s.pop_cases with ⟨hempty, -⟩ | ⟨_, hpop⟩
  · omega
  · rw [execRet, hpop]
    rfl

theorem exec_ret_of_empty {s : State} (h : s.sp.val = 0) : exec .ret s = .fault .stackUnderflow := by
  show execRet s = _
  rcases s.pop_cases with ⟨-, hpop⟩ | ⟨hpos, -⟩
  · rw [execRet, hpop, raise]
  · omega

theorem exec_call_of_lt (nnn : Addr12) {s : State} (h : s.sp.val < 16) :
    exec (.call nnn) s = .next { s with
      pc := addressOperand nnn, sp := ⟨s.sp.val + 1, by omega⟩, stack := s.stack.set s.sp.val (s.pc + 2) } := by
  show execCall nnn s = _
  rcases s.push_cases (s.pc + 2) with ⟨hfull, -⟩ | ⟨_, hpush⟩
  · omega
  · rw [execCall, hpush]
    rfl

theorem exec_call_of_full (nnn : Addr12) {s : State} (h : s.sp.val = 16) :
    exec (.call nnn) s = .fault .stackOverflow := by
  show execCall nnn s = _
  rcases s.push_cases (s.pc + 2) with ⟨-, hpush⟩ | ⟨hlt, -⟩
  · rw [execCall, hpush, raise]
  · omega

/-- Settles O20. -/
theorem returnPops : Obligations.ReturnPops :=
  ⟨decode_encode .ret,
    fun s hpos => ⟨_, exec_ret_of_pos hpos, rfl, rfl,
      s.changesOnly_withPcSpStack _ (by simp) (.inr (by simp)) (.inl rfl)⟩,
    fun _ hempty => exec_ret_of_empty hempty⟩

/-- Settles O22: the push writes the slot at the old SP alone. -/
theorem callPushesTheNextAddress : Obligations.CallPushesTheNextAddress := by
  refine ⟨fun op h => decode_of_encode (i := .call (opNNN op)) (encodeNNN_of_fields h), fun nnn s hlt => ?_,
    fun nnn _ hfull => exec_call_of_full nnn hfull⟩
  refine ⟨_, exec_call_of_lt nnn hlt, ?_, fun k hk => ?_, rfl, addressOperand_toNat nnn,
    s.changesOnly_withPcSpStack _ (by simp) (.inr (by simp)) (.inr (by simp))⟩
  · exact Vector.getElem_set_self hlt
  · exact Vector.getElem_set_ne hlt k.isLt hk.symm

/-- Settles O55: the return pops the slot at the call's SP, which by hypothesis still holds what the call pushed. -/
theorem returnComesBackAfterTheCall : Obligations.ReturnComesBackAfterTheCall := by
  intro nnn s t hcall u hsp hslot
  obtain ⟨hlt, rfl⟩ := exec_call_eq_next hcall
  have hu : u.sp.val = s.sp.val + 1 := congrArg Fin.val hsp
  have hheld : u.stack[s.sp.val] = s.pc + 2 :=
    (hslot ⟨s.sp.val, hlt⟩ rfl).trans (Vector.getElem_set_self hlt)
  refine ⟨_, exec_ret_of_pos (by omega), ?_, Fin.ext ?_⟩
  · simpa only [hu, Nat.add_sub_cancel] using hheld
  · simp only [hu, Nat.add_sub_cancel]

/-! ## Jumps (R151, R153) -/

/-- At 0xFFF the second byte of the opcode lies outside memory (D36). -/
theorem step_of_pc_eq_0xFFF {s : State} (hpc : s.pc.toNat = 0xFFF) :
    step s = .fault (.addressOutOfRange 0x1000) := by
  rcases s.fetch_cases with ⟨h, -⟩ | ⟨-, hf⟩ | ⟨h, -⟩
  · omega
  · simp [step, cycle, hf, raise]
  · omega

/-- Settles O21. -/
theorem jumpGoesToNnn : Obligations.JumpGoesToNnn := by
  refine ⟨fun op h => decode_of_encode (i := .jp (opNNN op)) (encodeNNN_of_fields h), fun nnn s => ?_⟩
  refine ⟨_, rfl, addressOperand_toNat nnn, s.changesOnly_setPc _, ?_⟩
  rintro rfl
  exact step_of_pc_eq_0xFFF (addressOperand_toNat 0xFFF#12)

/-- Settles O23. -/
theorem jumpIndexedByV0 : Obligations.JumpIndexedByV0 :=
  ⟨fun op h => decode_of_encode (i := .jpV0 (opNNN op)) (encodeNNN_of_fields h),
    fun nnn s => ⟨_, rfl, s.indexedTarget_toNat nnn, s.changesOnly_setPc _⟩⟩

end Sys2Proof.Machine
end

section
/-! SUPPORT. The conditional skips (spec 42_skips.md): each ends in `State.skipIf` on the test its rule states, which
writes `pc` alone; their opcodes decode because each is the encoding of its own fields. -/

namespace Sys2Proof.Machine

/-! ## What a skip does (R24) -/

/-- A skip writes `pc` alone, whichever way it goes. -/
theorem State.changesOnly_skipIf (s : State) (c : Bool) : ChangesOnly [.pc] s (s.skipIf c) := by
  cases c
  case false => exact s.changesOnly_setPc (s.pc + 2)
  case true => exact s.changesOnly_setPc (s.pc + 4)

/-- An instruction that ends in `State.skipIf` skips exactly when the condition `P` its test decides holds. -/
theorem skips_iff {r : Result} {s : State} {c : Bool} {P : Prop} [Decidable P] (hr : r = .next (s.skipIf c))
    (hc : c = true ↔ P) :
    ∃ t, r = .next t ∧ t.pc = (if P then s.pc + 4 else s.pc + 2) ∧ ChangesOnly [.pc] s t :=
  ⟨s.skipIf c, hr, by simp only [State.skipIf_pc, hc], s.changesOnly_skipIf c⟩

/-! ## A register against a byte (R160, R161) -/

/-- Settles O24. -/
theorem skipIfRegisterEqualsByte : Obligations.SkipIfRegisterEqualsByte :=
  ⟨fun op h => decode_of_encode (i := .seImm (opX op) (opNN op)) (encodeXNN_of_fields h rfl),
    fun _ _ _ => skips_iff rfl beq_iff_eq⟩

/-- Settles O25. -/
theorem skipIfRegisterDiffersFromByte : Obligations.SkipIfRegisterDiffersFromByte :=
  ⟨fun op h => decode_of_encode (i := .sneImm (opX op) (opNN op)) (encodeXNN_of_fields h rfl),
    fun _ _ _ => skips_iff rfl bne_iff_ne⟩

/-! ## Two registers (R162, R163) -/

/-- Settles O26. -/
theorem skipIfRegistersEqual : Obligations.SkipIfRegistersEqual :=
  ⟨fun op h hn => decode_of_encode (i := .seReg (opX op) (opY op)) (encodeXYN_of_fields h hn),
    fun _ _ _ => skips_iff rfl beq_iff_eq⟩

/-- Settles O27. -/
theorem skipIfRegistersDiffer : Obligations.SkipIfRegistersDiffer :=
  ⟨fun op h hn => decode_of_encode (i := .sneReg (opX op) (opY op)) (encodeXYN_of_fields h hn),
    fun _ _ _ => skips_iff rfl bne_iff_ne⟩

/-! ## The key the low nibble of `V[X]` selects (R164, R165, D15) -/

/-- Settles O28. -/
theorem skipIfKeyPressed : Obligations.SkipIfKeyPressed := by
  refine ⟨fun op h hnn => decode_of_encode (i := .skp (opX op)) (encodeXNN_of_fields h hnn), fun x s k hk => ?_⟩
  have hkey : lowNibble (s.getV x) = k := lowNibble_eq hk
  exact skips_iff rfl (by rw [hkey])

/-- Settles O29. -/
theorem skipIfKeyReleased : Obligations.SkipIfKeyReleased := by
  refine ⟨fun op h hnn => decode_of_encode (i := .sknp (opX op)) (encodeXNN_of_fields h hnn), fun x s k hk => ?_⟩
  have hkey : lowNibble (s.getV x) = k := lowNibble_eq hk
  exact skips_iff rfl (by rw [hkey, Bool.not_eq_true'])

end Sys2Proof.Machine
end

section
/-! SUPPORT. Immediate loads, add immediate and the random byte (spec 43_immediate_and_random.md): each writes one
register, or `I`, and then advances `pc`. The frame of such a composition is the union of the frames of its updates. -/

namespace Sys2Proof.Machine

/-! ## Frames compose -/

theorem samePart_trans {s t u : State} {p : Part} (hst : samePart s t p) (htu : samePart t u p) : samePart s u p := by
  cases p
  case regs | memory | display | keys => exact fun k => (htu k).trans (hst k)
  all_goals exact htu.trans hst

theorem ChangesOnly.trans {ps qs : List Part} {s t u : State} (hst : ChangesOnly ps s t) (htu : ChangesOnly qs t u) :
    ChangesOnly (ps ++ qs) s u := by
  intro p hp
  rw [List.mem_append, not_or] at hp
  exact samePart_trans (hst p hp.1) (htu p hp.2)

theorem ChangesOnly.mono {ps qs : List Part} {s t : State} (h : ChangesOnly ps s t) (hsub : ps ⊆ qs) :
    ChangesOnly qs s t :=
  fun p hp => h p fun hmem => hp (hsub hmem)

/-! ## The frame of one update -/

theorem State.changesOnly_advance (s : State) : ChangesOnly [.pc] s s.advance := s.changesOnly_setPc _

theorem State.changesOnly_setV (s : State) (x : Reg) (b : Byte) : ChangesOnly [.regs] s (s.setV x b) := by
  intro p hp
  cases p
  case regs => exact absurd (List.mem_singleton_self _) hp
  case memory | display | keys => exact fun _ => rfl
  all_goals rfl

theorem State.regsSameBut_setV (s : State) (x : Reg) (b : Byte) : RegsSameBut [x] s (s.setV x b) :=
  fun _ hr => s.getV_setV_other b (List.ne_of_not_mem_cons hr)

theorem State.changesOnly_setI (s : State) (w : Word) : ChangesOnly [.index] s (s.setI w) := by
  intro p hp
  cases p
  case index => exact absurd (List.mem_singleton_self _) hp
  case regs | memory | display | keys => exact fun _ => rfl
  all_goals rfl

theorem State.changesOnly_nextDraw (s : State) : ChangesOnly [.draws] s s.nextDraw := by
  intro p hp
  cases p
  case draws => exact absurd (List.mem_singleton_self _) hp
  case regs | memory | display | keys => exact fun _ => rfl
  all_goals rfl

/-! ## Immediate load and add (R170, R171, R172) -/

/-- An instruction that ends in a write of one register and an advance, `VF` being a register like the others. -/
theorem writes_register {r : Result} {s : State} {x : Reg} {b : Byte} (hr : r = .next (s.setV x b).advance) :
    ∃ t, r = .next t ∧ t.getV x = b ∧ t.pc = s.pc + 2 ∧ RegsSameBut [x] s t ∧ ChangesOnly [.regs, .pc] s t :=
  ⟨_, hr, s.getV_setV_same x b, rfl, s.regsSameBut_setV x b,
    (s.changesOnly_setV x b).trans (s.setV x b).changesOnly_advance⟩

/-- Settles O30. -/
theorem loadImmediateWritesVx : Obligations.LoadImmediateWritesVx :=
  ⟨fun op h => decode_of_encode (i := .ldImm (opX op) (opNN op)) (encodeXNN_of_fields h rfl),
    fun _ _ _ => writes_register rfl⟩

/-- Settles O31: the sum of two bytes is their sum modulo 256. -/
theorem addImmediateWrapsWithoutFlag : Obligations.AddImmediateWrapsWithoutFlag := by
  refine ⟨fun op h => decode_of_encode (i := .addImm (opX op) (opNN op)) (encodeXNN_of_fields h rfl),
    fun x nn s => ?_⟩
  obtain ⟨t, ht, hx, hframe⟩ := writes_register (r := exec (.addImm x nn) s) rfl
  exact ⟨t, ht, hx ▸ BitVec.toNat_add _ _, hframe⟩

/-- Settles O32. -/
theorem loadIndexWritesNnn : Obligations.LoadIndexWritesNnn :=
  ⟨fun op h => decode_of_encode (i := .ldI (opNNN op)) (encodeNNN_of_fields h),
    fun nnn s => ⟨_, rfl, addressOperand_toNat nnn, rfl,
      (s.changesOnly_setI _).trans (s.setI _).changesOnly_advance⟩⟩

/-! ## The random byte (R173, D34) -/

/-- Whatever the byte is, `CXNN` writes it masked, moves the draw counter on and advances. -/
theorem execWith_rnd (rnd : Byte) (x : Reg) (nn : Byte) (s : State) :
    ∃ t, execWith rnd (.rnd x nn) s = .next t ∧ t.getV x = rnd &&& nn ∧ t.draws = s.draws + 1 ∧ t.pc = s.pc + 2 ∧
      RegsSameBut [x] s t ∧ ChangesOnly [.regs, .pc, .draws] s t := by
  refine ⟨_, rfl, s.getV_setV_same x _, rfl, rfl, s.regsSameBut_setV x _, ?_⟩
  have hframe := ((s.changesOnly_setV x (rnd &&& nn)).trans (State.changesOnly_nextDraw _)).trans
    (State.changesOnly_advance _)
  exact hframe.mono (by simp)

/-- Settles O33: the free byte of this draw is one of the bytes `execWith_rnd` speaks of. -/
theorem randomIsMaskedByNn : Obligations.RandomIsMaskedByNn := by
  refine ⟨fun op h => decode_of_encode (i := .rnd (opX op) (opNN op)) (encodeXNN_of_fields h rfl),
    fun rnd x nn s => ?_, fun x nn s => ?_⟩
  · obtain ⟨t, ht, hx, -, hframe⟩ := execWith_rnd rnd x nn s
    exact ⟨t, ht, hx, hframe⟩
  · obtain ⟨t, ht, hx, hframe⟩ := execWith_rnd (Config.randomByte s.draws) x nn s
    have hexec : exec (.rnd x nn) s = .next t := (execWith_randomByte _ s).symm.trans ht
    have hmask : ∀ k, nn.getLsbD k = false → (t.getV x).getLsbD k = false := fun k hk => by
      rw [hx, BitVec.getLsbD_and, hk, Bool.and_false]
    exact ⟨t, hexec, ht, hx, hmask, hframe⟩

end Sys2Proof.Machine
end

section
/-! SUPPORT. The register-register ALU family (spec 44_alu.md): the flagless forms write one register and advance; the
others write the result, then VF (R180, D9), and advance. What the flag is stands in `flagRegisterWriters`. -/

namespace Sys2Proof.Machine

/-! ## Assign and the bitwise forms (R181 to R184, D11) -/

/-- `writes_register` with the byte written given bit by bit. -/
theorem writes_register_bitwise {r : Result} {s : State} {x : Reg} {b : Byte} {bit : Nat → Bool}
    (hr : r = .next (s.setV x b).advance) (hbit : ∀ k, b.getLsbD k = bit k) :
    ∃ t, r = .next t ∧ (∀ k < 8, (t.getV x).getLsbD k = bit k) ∧ t.pc = s.pc + 2 ∧ RegsSameBut [x] s t ∧
      ChangesOnly [.regs, .pc] s t := by
  obtain ⟨t, ht, hx, hframe⟩ := writes_register hr
  exact ⟨t, ht, fun k _ => hx ▸ hbit k, hframe⟩

/-- Settles O34. -/
theorem assignCopiesVy : Obligations.AssignCopiesVy :=
  ⟨fun op h hn => decode_of_encode (i := .ldReg (opX op) (opY op)) (encodeXYN_of_fields h hn),
    fun _ _ _ => writes_register rfl⟩

/-- Settles O35. -/
theorem orLeavesTheFlag : Obligations.OrLeavesTheFlag :=
  ⟨fun op h hn => decode_of_encode (i := .orReg (opX op) (opY op)) (encodeXYN_of_fields h hn),
    fun _ _ _ => writes_register_bitwise rfl fun _ => BitVec.getLsbD_or⟩

/-- Settles O36. -/
theorem andLeavesTheFlag : Obligations.AndLeavesTheFlag :=
  ⟨fun op h hn => decode_of_encode (i := .andReg (opX op) (opY op)) (encodeXYN_of_fields h hn),
    fun _ _ _ => writes_register_bitwise rfl fun _ => BitVec.getLsbD_and⟩

/-- Settles O37. -/
theorem xorLeavesTheFlag : Obligations.XorLeavesTheFlag :=
  ⟨fun op h hn => decode_of_encode (i := .xorReg (opX op) (opY op)) (encodeXYN_of_fields h hn),
    fun _ _ _ => writes_register_bitwise rfl fun _ => BitVec.getLsbD_xor⟩

/-! ## The result, then the flag (R180, D9) -/

theorem State.regsSameBut_setResultAndFlag (s : State) (x : Reg) (b : Byte) (f : Bool) :
    RegsSameBut [x, 15] s (s.setResultAndFlag x b f) := by
  intro r hr
  obtain ⟨hx, h15⟩ : r ≠ x ∧ r ≠ 15 := by simpa using hr
  rw [State.getV_setResultAndFlag, if_neg h15, if_neg hx]

theorem State.changesOnly_setResultAndFlag (s : State) (x : Reg) (b : Byte) (f : Bool) :
    ChangesOnly [.regs] s (s.setResultAndFlag x b f) :=
  ((s.changesOnly_setV x b).trans (State.changesOnly_setV _ flagReg (flagByte f))).mono (by simp)

/-- An instruction that ends in a result, a flag and an advance. The result is given as a number `n` that `val` reads
from it; with X = 15 the flag overwrites it, and `VF` holds the byte `w` either way. -/
theorem writes_result_and_flag {α : Type} (val : Byte → α) {r : Result} {s : State} {x : Reg} {b w : Byte} {f : Bool}
    {n : α} (hr : r = .next (s.setResultAndFlag x b f).advance) (hn : val b = n)
    (hw : ∀ t, r = .next t → t.getV 15 = w) :
    ∃ t, r = .next t ∧ (x ≠ 15 → val (t.getV x) = n) ∧ t.getV 15 = w ∧ t.pc = s.pc + 2 ∧ RegsSameBut [x, 15] s t ∧
      ChangesOnly [.regs, .pc] s t := by
  refine ⟨_, hr, fun hx => ?_, hw _ hr, rfl, s.regsSameBut_setResultAndFlag x b f,
    (s.changesOnly_setResultAndFlag x b f).trans (State.changesOnly_advance _)⟩
  have hresult : (s.setResultAndFlag x b f).advance.getV x = b := by simp [hx]
  rw [hresult, hn]

/-! ## Sum and differences (R185, R186, R188) -/

/-- The difference of two bytes is their difference as integers, modulo 256. -/
theorem toNat_sub_eq_emod (a b : Byte) : ((a - b).toNat : Int) = ((a.toNat : Int) - b.toNat) % 256 := by
  rw [BitVec.toNat_sub]
  omega

/-- Settles O38. -/
theorem addSetsCarry : Obligations.AddSetsCarry :=
  ⟨fun op h hn => decode_of_encode (i := .addReg (opX op) (opY op)) (encodeXYN_of_fields h hn),
    fun x y s => writes_result_and_flag BitVec.toNat rfl (BitVec.toNat_add _ _)
      (flagRegisterWriters (.addReg x y) s)⟩

/-- Settles O39. -/
theorem subSetsBorrow : Obligations.SubSetsBorrow :=
  ⟨fun op h hn => decode_of_encode (i := .subReg (opX op) (opY op)) (encodeXYN_of_fields h hn),
    fun x y s => writes_result_and_flag (fun b => (b.toNat : Int)) rfl (toNat_sub_eq_emod _ _)
      (flagRegisterWriters (.subReg x y) s)⟩

/-- Settles O41. -/
theorem reverseSubSetsBorrow : Obligations.ReverseSubSetsBorrow :=
  ⟨fun op h hn => decode_of_encode (i := .subnReg (opX op) (opY op)) (encodeXYN_of_fields h hn),
    fun x y s => writes_result_and_flag (fun b => (b.toNat : Int)) rfl (toNat_sub_eq_emod _ _)
      (flagRegisterWriters (.subnReg x y) s)⟩

/-! ## Shifts by one of the operand `SHIFT_SRC` selects (R187, R189, D3) -/

theorem toNat_ushiftRight_one (b : Byte) : (b >>> 1).toNat = b.toNat / 2 := by
  rw [BitVec.toNat_ushiftRight, Nat.shiftRight_eq_div_pow, Nat.pow_one]

theorem toNat_shiftLeft_one (b : Byte) : (b <<< 1).toNat = b.toNat * 2 % 256 := by
  rw [BitVec.toNat_shiftLeft, Nat.shiftLeft_eq, Nat.pow_one]

/-- Settles O40. -/
theorem shiftRightSetsShiftedOutBit : Obligations.ShiftRightSetsShiftedOutBit :=
  ⟨fun op h hn => decode_of_encode (i := .shrReg (opX op) (opY op)) (encodeXYN_of_fields h hn),
    fun x y s => writes_result_and_flag BitVec.toNat rfl (toNat_ushiftRight_one (s.shiftOperand x y))
      (flagRegisterWriters (.shrReg x y) s)⟩

/-- Settles O42. -/
theorem shiftLeftSetsShiftedOutBit : Obligations.ShiftLeftSetsShiftedOutBit :=
  ⟨fun op h hn => decode_of_encode (i := .shlReg (opX op) (opY op)) (encodeXYN_of_fields h hn),
    fun x y s => writes_result_and_flag BitVec.toNat rfl (toNat_shiftLeft_one (s.shiftOperand x y))
      (flagRegisterWriters (.shlReg x y) s)⟩

end Sys2Proof.Machine
end

section
/-! SUPPORT. The display (spec 45_display.md): `00E0` writes the blank display; a `DXYN` whose rows are in range ends in
`State.drawn`, the pixels its sprite covers flipped and VF the collision; drawing the same pixels twice flips them back. -/

namespace Sys2Proof.Machine

/-! ## Clear (R200) -/

theorem State.changesOnly_setDisplay (s : State) (d : Display) : ChangesOnly [.display, .redraw] s (s.setDisplay d) := by
  intro p hp
  cases p
  case display | redraw => simp at hp
  case regs | memory | keys => exact fun _ => rfl
  all_goals rfl

/-- Settles O43. -/
theorem clearBlanksTheDisplay : Obligations.ClearBlanksTheDisplay :=
  ⟨decode_of_encode (i := .cls) rfl, fun s => ⟨_, rfl, Display.pixel_blank, rfl, rfl,
    (s.changesOnly_setDisplay Display.blank).trans (State.changesOnly_advance _)⟩⟩

/-! ## The two ways a `DXYN` ends (R201, R67, D19) -/

/-- The state a `DXYN` goes on to. -/
def State.drawn (s : State) (x y : Reg) (n : Fin 16) : State :=
  ((s.setDisplay (s.drwResult x y n).1).setFlag (s.drwResult x y n).2).advance

section
variable {s t : State} {x y : Reg} {n : Fin 16}

theorem exec_drw_of_inRange (h : ∀ r < n.val, s.i.toNat + r ≤ 0xFFF) :
    exec (.drw x y n) s = .next (s.drawn x y n) :=
  checked_of_inRange h

theorem exec_drw_eq_next (h : exec (.drw x y n) s = .next t) :
    (∀ r < n.val, s.i.toNat + r ≤ 0xFFF) ∧ t = s.drawn x y n := by
  obtain ⟨hrange, ⟨⟩⟩ := checked_eq_next h
  exact ⟨hrange, rfl⟩

theorem exec_drw_of_outOfRange {r : Nat} (hr : r < n.val) (hout : 0xFFF < s.i.toNat + r)
    (hbefore : ∀ j < r, s.i.toNat + j ≤ 0xFFF) :
    exec (.drw x y n) s = .fault (.addressOutOfRange (s.i.toNat + r)) := by
  have hfirst : firstOutOfRange s.dataBase n.val = some (s.i.toNat + r) :=
    firstOutOfRange_eq_some.mpr ⟨r, hr, rfl, hout, hbefore⟩
  show checked s.dataBase n.val _ = raise _
  rw [checked, hfirst]

end

/-! ## What a draw writes (R201, R31) -/

section
variable (s : State) (x y : Reg) (n : Fin 16)

theorem State.drawn_pixel (k : PixelIndex) :
    (s.drawn x y n).disp.pixel k = if k ∈ s.drwTargets x y n then !s.disp.pixel k else s.disp.pixel k :=
  s.drwResult_pixel x y n k

theorem State.drawn_getV (r : Reg) :
    (s.drawn x y n).getV r = if r = 15 then flagByte (s.drwResult x y n).2 else s.getV r := by
  simp [State.drawn]

theorem State.regsSameBut_drawn : RegsSameBut [15] s (s.drawn x y n) := fun r hr => by
  rw [State.drawn_getV, if_neg (List.ne_of_not_mem_cons hr)]

theorem State.changesOnly_drawn : ChangesOnly [.regs, .display, .redraw, .pc] s (s.drawn x y n) :=
  (((s.changesOnly_setDisplay _).trans (State.changesOnly_setV _ flagReg _)).trans
    (State.changesOnly_advance _)).mono (by simp)

end

/-- Settles O44: the covered pixels are the targets flipped; what VF is stands in `flagRegisterWriters`. -/
theorem drawXorsTheSprite : Obligations.DrawXorsTheSprite := by
  refine ⟨fun op h => decode_of_opMajor_eq_0xD h, fun x y n s hrange => ?_,
    fun x y n s r hr hout hbefore => exec_drw_of_outOfRange hr hout hbefore⟩
  have hexec : exec (.drw x y n) s = .next (s.drawn x y n) := exec_drw_of_inRange hrange
  obtain ⟨hcollision, hnone⟩ := flagRegisterWriters (.drw x y n) s _ hexec
  refine ⟨_, hexec, fun k hk => ?_, fun k hk => ?_, hcollision, hnone, rfl, rfl, s.regsSameBut_drawn x y n,
    s.changesOnly_drawn x y n⟩
  · rw [State.drawn_pixel, if_pos (State.mem_drwTargets.mpr hk)]
  · rw [State.drawn_pixel, if_neg (mt State.mem_drwTargets.mp hk)]

/-! ## Drawing twice (R201, C2) -/

theorem flagByte_eq_one_iff (b : Bool) : flagByte b = 1 ↔ b = true := by cases b <;> decide

theorem flagByte_eq_zero_or_one (b : Bool) : flagByte b = 0 ∨ flagByte b = 1 := by cases b <;> decide

section
variable {s : State} {x y : Reg} {n : Fin 16} (hx : ((s.drawn x y n).getV x).toNat % 64 = (s.getV x).toNat % 64)
  (hy : ((s.drawn x y n).getV y).toNat % 32 = (s.getV y).toNat % 32)
include hx hy

/-- A draw leaves `I`, memory and the configuration, so a second one from the same origin has the same targets. -/
theorem State.drwTargets_drawn : (s.drawn x y n).drwTargets x y n = s.drwTargets x y n :=
  congrArg₂ (fun x0 y0 => spriteTargets s.cfg.drawEdge x0 y0 (s.peekList s.dataBase n.val)) hx hy

/-- Each target is flipped twice, every other pixel not at all. -/
theorem State.drawn_drawn_disp : ((s.drawn x y n).drawn x y n).disp = s.disp := by
  refine Display.ext_pixel fun k => ?_
  rw [State.drawn_pixel, State.drwTargets_drawn hx hy, State.drawn_pixel]
  split
  · exact Bool.not_not _
  · rfl

/-- The second draw collides exactly at the targets that were 0 before the first. -/
theorem State.drwResult_drawn_collision :
    ((s.drawn x y n).drwResult x y n).2 = true ↔ ∃ k, k ∈ s.drwTargets x y n ∧ s.disp.pixel k = false := by
  rw [State.drwResult_collision, State.drwTargets_drawn hx hy]
  refine exists_congr fun k => and_congr_right fun hk => ?_
  rw [State.drawn_pixel, if_pos hk, Bool.not_eq_true']

end

/-- Settles O45. -/
theorem drawingTwiceRestoresTheDisplay : Obligations.DrawingTwiceRestoresTheDisplay := by
  intro x y n s t h hx hy
  obtain ⟨hrange, rfl⟩ := exec_drw_eq_next h
  have hflag : ((s.drawn x y n).drawn x y n).getV 15 = flagByte ((s.drawn x y n).drwResult x y n).2 :=
    State.drawn_getV _ x y n 15
  refine ⟨_, exec_drw_of_inRange hrange, State.drawn_drawn_disp hx hy, ?_, hflag ▸ flagByte_eq_zero_or_one _⟩
  simp only [hflag, flagByte_eq_one_iff, State.drwResult_drawn_collision hx hy, State.mem_drwTargets]

end Sys2Proof.Machine
end

section
/-! SUPPORT. The timers and the key wait (spec 46_timers_and_keys.md): what `FX07`, `FX0A`, `FX15` and `FX18` write, that
no other transaction than a step of `FX15` raises the delay timer, and that ticks count it down to 0 (R261). -/

namespace Sys2Proof.Machine

/-! ## The writes of the two timers (R222, R223) -/

theorem State.changesOnly_setDT (s : State) (b : Byte) : ChangesOnly [.delay] s (s.setDT b) := by
  intro p hp
  cases p
  case delay => exact absurd (List.mem_singleton_self _) hp
  case regs | memory | display | keys => exact fun _ => rfl
  all_goals rfl

theorem State.changesOnly_setST (s : State) (b : Byte) : ChangesOnly [.sound] s (s.setST b) := by
  intro p hp
  cases p
  case sound => exact absurd (List.mem_singleton_self _) hp
  case regs | memory | display | keys => exact fun _ => rfl
  all_goals rfl

/-- Settles O48. -/
theorem writeDelayTimer : Obligations.WriteDelayTimer :=
  ⟨fun op h hnn => decode_of_encode (i := .ldDtVx (opX op)) (encodeXNN_of_fields h hnn),
    fun x s => ⟨_, rfl, rfl, rfl, (s.changesOnly_setDT (s.getV x)).trans (State.changesOnly_advance _)⟩⟩

/-- Settles O49. -/
theorem writeSoundTimer : Obligations.WriteSoundTimer :=
  ⟨fun op h hnn => decode_of_encode (i := .ldStVx (opX op)) (encodeXNN_of_fields h hnn),
    fun x s => ⟨_, rfl, rfl, toneActive_iff _, rfl,
      (s.changesOnly_setST (s.getV x)).trans (State.changesOnly_advance _)⟩⟩

/-! ## The key wait, both ways to end (R221, D16) -/

theorem exec_ldVxKey_of_noKey (x : Reg) {s : State} (h : s.lowestKey = none) : exec (.ldVxKey x) s = .next s := by
  show execLdVxKey x s = _
  rw [execLdVxKey, h]

theorem exec_ldVxKey_of_lowestKey (x : Reg) {s : State} {k : Key} (h : s.lowestKey = some k) :
    exec (.ldVxKey x) s = .next (s.setV x (BitVec.ofNat 8 k.val)).advance := by
  show execLdVxKey x s = _
  rw [execLdVxKey, h]

/-- Settles O47: a key's number, below 16, is stored as it is. -/
theorem keyWaitRetriesOrStores : Obligations.KeyWaitRetriesOrStores := by
  refine ⟨fun op h hnn => decode_of_encode (i := .ldVxKey (opX op)) (encodeXNN_of_fields h hnn),
    fun x s hnone => exec_ldVxKey_of_noKey x (State.lowestKey_eq_none.mpr hnone), fun x s k hk hlow => ?_⟩
  have hlowest : s.lowestKey = some k := State.lowestKey_eq_some.mpr ⟨hk, hlow⟩
  obtain ⟨t, ht, hx, hframe⟩ := writes_register (exec_ldVxKey_of_lowestKey x hlowest)
  have hval : (BitVec.ofNat 8 k.val).toNat = k.val := by
    rw [BitVec.toNat_ofNat, Nat.mod_eq_of_lt (by omega)]
  exact ⟨t, ht, hx ▸ hval, hframe⟩

/-! ## The delay timer over all transactions (R220, R261) -/

theorem tickByte_toNat (b : Byte) : (tickByte b).toNat = b.toNat - 1 := by
  unfold tickByte
  split
  · next hzero => rw [hzero]; rfl
  · bv_omega

/-- Of the ways a step can go on, the skip of an undefined opcode keeps the delay timer and so does `CXNN` with its byte
given; of the other instructions only `FX15` writes it (R37). -/
theorem fetches_ldDtVx_of_stepWith {rnd : Byte} {s t : State} (h : stepWith rnd s = .next t) (hdt : t.dt ≠ s.dt) :
    ∃ op x, s.fetch = .ok op ∧ decode op = some (.ldDtVx x) := by
  rw [stepWith] at h
  rcases cycle_cases (execWith rnd) s with ⟨f, -, hc⟩ | ⟨op, -, -, -, hc⟩ | ⟨op, -, -, -, hc⟩ | ⟨op, i, hf, hd, hc⟩ <;>
    rw [hc] at h
  · cases h
  · cases h
  · cases h
    exact absurd rfl hdt
  · obtain ⟨x, b, rfl⟩ | hi := execWith_eq_next h
    · exact absurd rfl hdt
    · obtain ⟨-, -, -, hdelay, -⟩ := eachElementHasOnlyItsWriters i s t hi
      obtain ⟨x, rfl⟩ := hdelay hdt
      exact ⟨op, x, hf, hd⟩

/-- A reset clears the delay timer, a tick counts it down, and of the other transactions only a step writes it. -/
theorem step_of_ldDtVx_of_transact_raises {tx : Transaction} {s : State}
    (h : s.dt.toNat < (transact tx s).2.dt.toNat) :
    ∃ rnd op x, tx = .step rnd ∧ s.fetch = .ok op ∧ decode op = some (.ldDtVx x) := by
  cases tx with
  | reset => exact absurd h (Nat.not_lt_zero _)
  | tickTimers =>
    have htick : (transact .tickTimers s).2.dt.toNat = s.dt.toNat - 1 := tickByte_toNat s.dt
    omega
  | loadProgram bytes => rcases portLoad_cases bytes s with ⟨-, he⟩ | ⟨-, he⟩ <;> simp [he] at h
  | step rnd =>
    rw [transact] at h
    rcases portStep_cases rnd s with ⟨t, ht, he⟩ | ⟨f, -, he⟩ | ⟨r, -, he⟩ <;> rw [he] at h
    · have hdt : t.dt ≠ s.dt := fun heq => Nat.lt_irrefl _ (heq ▸ h)
      obtain ⟨op, x, hf, hd⟩ := fetches_ldDtVx_of_stepWith ht hdt
      exact ⟨rnd, op, x, rfl, hf, hd⟩
    · exact absurd h (Nat.lt_irrefl _)
    · exact absurd h (Nat.lt_irrefl _)
  | setKey | getDisplay | clearRedraw => exact absurd h (Nat.lt_irrefl _)

theorem dt_transactAll_ticks (s : State) (n : Nat) :
    (transactAll (List.replicate n .tickTimers) s).dt.toNat = s.dt.toNat - n := by
  induction n generalizing s with
  | zero => rfl
  | succ n ih =>
    calc (transactAll (List.replicate n .tickTimers) (transact .tickTimers s).2).dt.toNat
        = (tickByte s.dt).toNat - n := ih _
      _ = s.dt.toNat - (n + 1) := by rw [tickByte_toNat]; omega

/-- Settles O46: as many ticks as the timer's value subtract all of it. -/
theorem readDelayTimer : Obligations.ReadDelayTimer := by
  refine ⟨fun op h hnn => decode_of_encode (i := .ldVxDt (opX op)) (encodeXNN_of_fields h hnn),
    fun _ _ => writes_register rfl, fun _ _ => step_of_ldDtVx_of_transact_raises, fun s n hn => ?_⟩
  refine BitVec.eq_of_toNat_eq ?_
  rw [dt_transactAll_ticks]
  exact Nat.sub_eq_zero_of_le hn

end Sys2Proof.Machine
end

section
/-! SUPPORT. The index register and memory instructions (spec 47_index_and_memory.md): `FX1E` and `FX29` write `I`;
`FX33`, `FX55` and `FX65` check all their addresses, then store or load at `I` upward. -/

namespace Sys2Proof.Machine

/-! ## Address checks that find an offending address (R67, D19) -/

/-- A check raises the first offending address. -/
theorem checked_of_firstOffending {base n k : Nat} {r : Result} (hk : k < n) (hout : 0xFFF < base + k)
    (hbefore : ∀ j < k, base + j ≤ 0xFFF) : checked base n r = .fault (.addressOutOfRange (base + k)) := by
  have hfirst : firstOutOfRange base n = some (base + k) :=
    firstOutOfRange_eq_some.mpr ⟨k, hk, rfl, hout, hbefore⟩
  rw [checked, hfirst]
  rfl

/-! ## Consecutive bytes stored inside memory (R64) -/

section
variable {s : State} (hwf : Memory.wf s.cfg s.mem = true) {a : Nat} {bs : List Byte} (ha : a + bs.length ≤ memSize)
include hwf ha

theorem State.peek_pokeList_stored {k : Nat} (hk : k < bs.length) : (s.pokeList a bs).peek (a + k) = bs[k] := by
  rw [State.peek_pokeList hwf ha, if_pos (by omega), Nat.add_sub_cancel_left, List.getD_eq_getElem _ _ hk]

theorem State.peek_pokeList_outside {a' : Nat} (h : a' < a ∨ a + bs.length ≤ a') :
    (s.pokeList a bs).peek a' = s.peek a' := by
  rw [State.peek_pokeList hwf ha, if_neg (by omega)]

end

/-! ## Writes of `I` (R230, R231) -/

theorem wordOperand_toNat (b : Byte) : (wordOperand b).toNat = b.toNat := by
  rw [wordOperand, BitVec.toNat_setWidth, Nat.mod_eq_of_lt (by omega)]

/-- Settles O50: the sum of two words is their sum modulo 65536. -/
theorem addToIndexWrapsWithoutFlag : Obligations.AddToIndexWrapsWithoutFlag := by
  refine ⟨fun op h hnn => decode_of_encode (i := .addI (opX op)) (encodeXNN_of_fields h hnn),
    fun x s => ⟨_, rfl, ?_, rfl, (s.changesOnly_setI _).trans (State.changesOnly_advance _)⟩⟩
  calc (s.i + wordOperand (s.getV x)).toNat
      = (s.i.toNat + (wordOperand (s.getV x)).toNat) % 65536 := BitVec.toNat_add _ _
    _ = (s.i.toNat + (s.getV x).toNat) % 65536 := by rw [wordOperand_toNat]

/-- Every font base is small enough that no glyph address wraps. -/
theorem fontBaseAddress_le (fb : FontBase) : fontBaseAddress fb ≤ 0x050 := by cases fb <;> decide

theorem glyphAddress_toNat (cfg : Config) (b : Byte) :
    (glyphAddress cfg b).toNat = fontBaseAddress cfg.fontBase + 5 * (b.toNat % 16) := by
  have hbase := fontBaseAddress_le cfg.fontBase
  have hdigit : lowNibble b = ⟨b.toNat % 16, Nat.mod_lt _ (by decide)⟩ := lowNibble_eq rfl
  rw [glyphAddress, hdigit, BitVec.toNat_ofNat, Nat.mod_eq_of_lt (by omega)]

/-- Settles O51. -/
theorem fontAddressOfLowNibble : Obligations.FontAddressOfLowNibble :=
  ⟨fun op h hnn => decode_of_encode (i := .ldFont (opX op)) (encodeXNN_of_fields h hnn),
    fun x s => ⟨_, rfl, glyphAddress_toNat s.cfg (s.getV x), rfl,
      (s.changesOnly_setI _).trans (State.changesOnly_advance _)⟩⟩

/-! ## Decimal digits (R232) -/

@[simp] theorem bcdDigits_length (b : Byte) : (bcdDigits b).length = 3 := rfl

/-- Each digit is below 256, so its byte holds it whole. -/
theorem bcdDigits_toNat (b : Byte) :
    (bcdDigits b)[0].toNat = b.toNat / 100 ∧ (bcdDigits b)[1].toNat = b.toNat / 10 % 10 ∧
      (bcdDigits b)[2].toNat = b.toNat % 10 := by
  simp only [bcdDigits, List.getElem_cons_zero, List.getElem_cons_succ, BitVec.toNat_ofNat]
  omega

/-- Settles O52: the three digits are stored as consecutive bytes from `I`. -/
theorem bcdStoresThreeDigits : Obligations.BcdStoresThreeDigits := by
  refine ⟨fun op h hnn => decode_of_encode (i := .ldBcd (opX op)) (encodeXNN_of_fields h hnn),
    fun x s hwf hrange => ?_, fun x s k hk hout hbefore => checked_of_firstOffending hk hout hbefore⟩
  have hexec : exec (.ldBcd x) s = .next (s.pokeList s.i.toNat (bcdDigits (s.getV x))).advance :=
    checked_of_inRange (base := s.i.toNat) fun j hj => by omega
  have hfits : s.i.toNat + (bcdDigits (s.getV x)).length ≤ memSize := by rw [bcdDigits_length, memSize]; omega
  have hstored : ∀ k (hk : k < 3), (s.pokeList s.i.toNat (bcdDigits (s.getV x))).peek (s.i.toNat + k) =
      (bcdDigits (s.getV x))[k] := fun k hk => State.peek_pokeList_stored hwf hfits hk
  obtain ⟨hhundreds, htens, hunits⟩ := bcdDigits_toNat (s.getV x)
  exact ⟨_, hexec, (congrArg BitVec.toNat (hstored 0 (by decide))).trans hhundreds,
    (congrArg BitVec.toNat (hstored 1 (by decide))).trans htens,
    (congrArg BitVec.toNat (hstored 2 (by decide))).trans hunits,
    fun a ha => State.peek_pokeList_outside hwf hfits ha, by simp,
    (s.changesOnly_pokeList _ _).trans (State.changesOnly_advance _)⟩

/-! ## Registers to and from memory (R233, R234, D35) -/

/-- `I` moves past the registers moved without a wrap, for the last address lies inside memory. -/
theorem State.index_past_regs {s : State} {x : Reg} (hrange : s.i.toNat + x.val ≤ 0xFFF) :
    (s.i + BitVec.ofNat 16 (regCount x)).toNat = s.i.toNat + x.val + 1 := by
  rw [regCount, BitVec.toNat_add, BitVec.toNat_ofNat]
  omega

theorem State.lowRegs_length (s : State) (x : Reg) : (s.lowRegs x).length = x.val + 1 := by
  rw [State.lowRegs, List.length_map, List.length_take, List.length_finRange, regCount]
  omega

theorem State.lowRegs_getElem (s : State) (x k : Reg) (hk : k.val < (s.lowRegs x).length) :
    (s.lowRegs x)[k.val] = s.getV k := by
  simp [State.lowRegs]

/-- Settles O53: the registers are stored as consecutive bytes from `I`. -/
theorem storeRegistersAscending : Obligations.StoreRegistersAscending := by
  refine ⟨fun op h hnn => decode_of_encode (i := .storeRegs (opX op)) (encodeXNN_of_fields h hnn),
    fun x s hwf hrange => ?_,
    fun x s k hk hout hbefore => checked_of_firstOffending (Nat.lt_succ_of_le hk) hout hbefore⟩
  have hexec : exec (.storeRegs x) s =
      .next ((s.pokeList s.i.toNat (s.lowRegs x)).setI (s.i + BitVec.ofNat 16 (regCount x))).advance :=
    checked_of_inRange (base := s.i.toNat) fun j hj => by rw [regCount] at hj; omega
  have hlen := s.lowRegs_length x
  have hfits : s.i.toNat + (s.lowRegs x).length ≤ memSize := by rw [hlen, memSize]; omega
  refine ⟨_, hexec, fun k hk => ?_, fun a ha => ?_, State.index_past_regs hrange, by simp,
    ((s.changesOnly_pokeList _ _).trans (State.changesOnly_setI _ _)).trans (State.changesOnly_advance _)⟩
  · have hlt : k.val < (s.lowRegs x).length := by omega
    exact (State.peek_pokeList_stored hwf hfits hlt).trans (s.lowRegs_getElem x k hlt)
  · exact State.peek_pokeList_outside hwf hfits (by omega)

theorem State.changesOnly_loadLowRegs (s : State) (base : Nat) (x : Reg) :
    ChangesOnly [.regs] s (s.loadLowRegs base x) := by
  intro p hp
  cases p
  case regs => exact absurd (List.mem_singleton_self _) hp
  all_goals simp [samePart, State.keyPressed]

/-- Settles O54. -/
theorem loadRegistersAscending : Obligations.LoadRegistersAscending := by
  refine ⟨fun op h hnn => decode_of_encode (i := .loadRegs (opX op)) (encodeXNN_of_fields h hnn),
    fun x s hrange => ?_,
    fun x s k hk hout hbefore => checked_of_firstOffending (Nat.lt_succ_of_le hk) hout hbefore⟩
  have hexec : exec (.loadRegs x) s =
      .next ((s.loadLowRegs s.i.toNat x).setI (s.i + BitVec.ofNat 16 (regCount x))).advance :=
    checked_of_inRange (base := s.i.toNat) fun j hj => by rw [regCount] at hj; omega
  refine ⟨_, hexec, fun k hk => ?_, fun k hk => ?_, State.index_past_regs hrange, rfl,
    ((s.changesOnly_loadLowRegs _ x).trans (State.changesOnly_setI _ _)).trans (State.changesOnly_advance _)⟩
  · simp [hk]
  · simp [Nat.not_le_of_lt hk]

end Sys2Proof.Machine
end

section
/-! SUPPORT. The errors (spec 60_exceptions.md): when each is raised and what it reports, that no instruction raises
another, and what a step does with an undefined opcode. -/

namespace Sys2Proof.Machine

/-! ## How an address check ends (R67, R254, D19) -/

section
variable {base n : Nat}

/-- The smallest offending address is the base if that is above 0xFFF, and else 0x1000. -/
theorem checked_of_last_outOfRange {r : Result} (hn : 1 ≤ n) (hout : 0xFFF < base + n - 1) :
    checked base n r = .fault (.addressOutOfRange (max base 0x1000)) := by
  have hfirst : base + (0x1000 - base) = max base 0x1000 := by omega
  rw [← hfirst]
  exact checked_of_firstOffending (by omega) (by omega) fun j hj => by omega

theorem checked_next_ne_fault {t : State} (h : n = 0 ∨ base + n - 1 ≤ 0xFFF) (f : Fault) :
    checked base n (.next t) ≠ .fault f := by
  rw [checked_of_inRange fun j hj => by omega]
  nofun

/-- A check before a next state goes on or raises an address above 0xFFF. -/
theorem checked_next_cases (base n : Nat) (t : State) :
    checked base n (.next t) = .next t ∨ ∃ a, 0xFFF < a ∧ checked base n (.next t) = .fault (.addressOutOfRange a) := by
  rcases checked_cases base n (.next t) with ⟨-, hc⟩ | ⟨a, hfirst, hc⟩
  · exact .inl hc
  · obtain ⟨-, -, -, hout, -⟩ := firstOutOfRange_eq_some.mp hfirst
    exact .inr ⟨a, hout, hc⟩

end

/-! ## Address out of range (R254) -/

/-- Above 0xFFF the first byte of the opcode lies outside memory. -/
theorem step_of_pc_above_0xFFF {s : State} (hpc : 0xFFF < s.pc.toNat) :
    step s = .fault (.addressOutOfRange s.pc.toNat) := by
  rcases s.fetch_cases with ⟨h, -⟩ | ⟨h, -⟩ | ⟨-, hf⟩
  · omega
  · omega
  · simp [step, cycle, hf, raise]

/-- Settles O6: each of the four instructions is one address check around a next state. -/
theorem addressOutOfRangeWhenAndWhere : Obligations.AddressOutOfRangeWhenAndWhere := by
  refine ⟨fun s => ⟨step_of_pc_eq_0xFFF, step_of_pc_above_0xFFF⟩, fun x y n s => ⟨?_, ?_⟩, fun x s => ⟨?_, ?_⟩,
    fun x s => ⟨?_, ?_⟩, fun rnd s a h => portStep_of_fault h⟩
  · exact fun ⟨hn, hout⟩ => checked_of_last_outOfRange hn hout
  · exact fun hrange => checked_next_ne_fault hrange
  · exact fun hout => checked_of_last_outOfRange (by decide) hout
  · exact fun hrange => checked_next_ne_fault (.inr hrange)
  · exact fun hout =>
      ⟨checked_of_last_outOfRange (Nat.succ_pos _) hout, checked_of_last_outOfRange (Nat.succ_pos _) hout⟩
  · exact fun hrange f => ⟨checked_next_ne_fault (.inr hrange) f, checked_next_ne_fault (.inr hrange) f⟩

/-! ## No other error, and no refusal (R257) -/

/-- The error `f` is the one R257 gives the instruction `i`, and `s` gives cause to raise it. -/
def NamedError (i : Instr) (s : State) (f : Fault) : Prop :=
  (i = .ret ∧ f = .stackUnderflow ∧ s.sp.val = 0) ∨
  (∃ nnn, i = .call nnn ∧ f = .stackOverflow ∧ s.sp.val = 16) ∨
  (∃ a, f = .addressOutOfRange a ∧ 0xFFF < a ∧
    ((∃ x y n, i = .drw x y n) ∨ (∃ x, i = .ldBcd x) ∨ (∃ x, i = .storeRegs x) ∨ (∃ x, i = .loadRegs x)))

/-- Everything an instruction can answer: an instruction that neither uses the stack nor checks addresses goes on. -/
theorem exec_cases (i : Instr) (s : State) :
    (∃ t, exec i s = .next t) ∨ ∃ f, exec i s = .fault f ∧ NamedError i s f := by
  cases i
  case ret =>
    rcases Nat.eq_zero_or_pos s.sp.val with hempty | hpos
    · exact .inr ⟨_, exec_ret_of_empty hempty, .inl ⟨rfl, rfl, hempty⟩⟩
    · exact .inl ⟨_, exec_ret_of_pos hpos⟩
  case call nnn =>
    rcases Nat.lt_or_eq_of_le (Nat.le_of_lt_succ s.sp.isLt) with hlt | hfull
    · exact .inl ⟨_, exec_call_of_lt nnn hlt⟩
    · exact .inr ⟨_, exec_call_of_full nnn hfull, .inr (.inl ⟨nnn, rfl, rfl, hfull⟩)⟩
  case drw | ldBcd | storeRegs | loadRegs =>
    rcases checked_next_cases _ _ _ with hnext | ⟨a, hout, hfault⟩
    · exact .inl ⟨_, hnext⟩
    · exact .inr ⟨_, hfault, .inr (.inr ⟨a, rfl, hout, by simp⟩)⟩
  case ldVxKey x =>
    cases hk : s.lowestKey with
    | none => exact .inl ⟨_, exec_ldVxKey_of_noKey x hk⟩
    | some k => exact .inl ⟨_, exec_ldVxKey_of_lowestKey x hk⟩
  all_goals exact .inl ⟨_, rfl⟩

/-- Settles O9. -/
theorem onlyTheNamedErrorsAreRaised : Obligations.OnlyTheNamedErrorsAreRaised := by
  intro i s
  rcases exec_cases i s with ⟨t, hnext⟩ | ⟨f, hfault, hnamed⟩
  · rw [hnext]
    exact ⟨nofun, nofun⟩
  · rw [hfault]
    exact ⟨nofun, fun _ h => by cases h; exact hnamed⟩

/-! ## The stack errors (R252, R253) -/

theorem exec_call_eq_stackOverflow_iff (nnn : Addr12) (s : State) :
    exec (.call nnn) s = .fault .stackOverflow ↔ s.sp.val = 16 := by
  refine ⟨fun h => ?_, exec_call_of_full nnn⟩
  obtain ⟨-, hnamed⟩ := onlyTheNamedErrorsAreRaised (.call nnn) s
  rcases hnamed _ h with ⟨⟨⟩, -⟩ | ⟨-, -, -, hfull⟩ | ⟨a, ⟨⟩, -⟩
  exact hfull

theorem exec_ret_eq_stackUnderflow_iff (s : State) : exec .ret s = .fault .stackUnderflow ↔ s.sp.val = 0 := by
  refine ⟨fun h => ?_, exec_ret_of_empty⟩
  obtain ⟨-, hnamed⟩ := onlyTheNamedErrorsAreRaised .ret s
  rcases hnamed _ h with ⟨-, -, hempty⟩ | ⟨nnn, ⟨⟩, -⟩ | ⟨a, ⟨⟩, -⟩
  exact hempty

/-- An instruction other than `CXNN` that fails where it is fetched fails at the step port, whatever the byte. -/
theorem portStep_of_exec_fault (rnd : Byte) {s : State} {op : Word} {i : Instr} {f : Fault} (hf : s.fetch = .ok op)
    (hd : decode op = some i) (hi : ∀ x nn, i ≠ .rnd x nn) (h : exec i s = .fault f) :
    portStep rnd s = (.stepFailed f, s) := by
  refine portStep_of_fault ?_
  calc stepWith rnd s = execWith rnd i s := cycle_of_decode (execWith rnd) hf hd
    _ = exec i s := execWith_of_ne_rnd rnd s hi
    _ = .fault f := h

/-- Settles O7. -/
theorem stackErrorsWhenAndHow : Obligations.StackErrorsWhenAndHow := by
  refine ⟨exec_call_eq_stackOverflow_iff, exec_ret_eq_stackUnderflow_iff, ?_, ?_⟩
  · exact fun rnd s op nnn hf hd hfull => portStep_of_exec_fault rnd hf hd nofun (exec_call_of_full nnn hfull)
  · exact fun rnd s op hf hd hempty => portStep_of_exec_fault rnd hf hd nofun (exec_ret_of_empty hempty)

/-! ## Undefined opcodes (R251, R268) -/

/-- A step that fetches an undefined opcode is left to the unknown-opcode policy, whatever runs the defined ones. -/
theorem cycle_of_undefined (run : Instr → State → Result) {s : State} {op : Word} (hf : s.fetch = .ok op)
    (hd : decode op = none) : cycle run s = unknownOpcode op s := by
  simp [cycle, hf, hd]

theorem unknownOpcode_of_halt (op : Word) {s : State} (h : s.cfg.unknownPolicy = .halt) :
    unknownOpcode op s = .fault (.unknownOpcode op) := by
  simp [unknownOpcode, h, raise]

theorem unknownOpcode_of_skip (op : Word) {s : State} (h : s.cfg.unknownPolicy = .skip) :
    unknownOpcode op s = .next s.advance := by
  simp [unknownOpcode, h]

/-- Settles O8. -/
theorem unknownOpcodeHaltsOrIsSkipped : Obligations.UnknownOpcodeHaltsOrIsSkipped := by
  intro s op hf hd
  have hcycle : ∀ run, cycle run s = unknownOpcode op s := fun run => cycle_of_undefined run hf hd
  refine ⟨fun hhalt => (hcycle exec).trans (unknownOpcode_of_halt op hhalt), fun hskip => ?_⟩
  have hnext : ∀ run, cycle run s = .next s.advance := fun run => (hcycle run).trans (unknownOpcode_of_skip op hskip)
  exact ⟨⟨_, hnext exec, rfl, s.changesOnly_advance⟩,
    fun rnd => ⟨_, _, portStep_of_next (hnext (execWith rnd)), rfl, s.changesOnly_advance,
      displayChanged_of_undefined hf hd, skipReport_of_undefined hf hd⟩⟩

end Sys2Proof.Machine
end

section
/-! SUPPORT. Ticks, the load of a program and the reset (spec 60_exceptions.md R261, R262, 70_reset_and_hazards.md). -/

namespace Sys2Proof.Machine

/-! ## The tick (R261, R262, D39) -/

theorem changesOnly_portTick (s : State) : ChangesOnly [.delay, .sound] s (portTick s).1 := by
  intro p hp
  cases p
  case delay | sound => simp at hp
  case regs | memory | display | keys => exact fun _ => rfl
  all_goals rfl

/-- Settles O57. -/
theorem tickCountsBothTimersDown : Obligations.TickCountsBothTimersDown := fun s =>
  ⟨_, _, rfl, tickByte_toNat s.dt, tickByte_toNat s.st, beq_iff_eq, toneActive_iff _, changesOnly_portTick s⟩

/-! ## The load (R292, R255, D32) -/

/-- Settles O59: a program that fits is stored as consecutive bytes from 0x200. -/
theorem loadProgramCopiesOrFails : Obligations.LoadProgramCopiesOrFails := by
  intro bytes s
  rcases portLoad_cases bytes s with ⟨hfits, hload⟩ | ⟨hlong, hload⟩
  · rw [progMax] at hfits
    refine ⟨fun hwf _ => ?_, fun hlong => absurd hlong (Nat.not_lt_of_le hfits)⟩
    have hend : 0x200 + bytes.length ≤ memSize := by rw [memSize]; omega
    exact ⟨_, hload, fun k hk => State.peek_pokeList_stored hwf hend hk,
      fun a ha => State.peek_pokeList_outside hwf hend ha, s.changesOnly_pokeList 0x200 bytes⟩
  · exact ⟨fun _ hfits => absurd hlong (Nat.not_lt_of_le hfits), fun _ => hload⟩

/-! ## The reset (R290, R36) -/

/-- Reset memory lists no cell. -/
theorem State.peek_portReset (s : State) (a : Nat) : (portReset s).peek a = unlistedByte s.cfg a := rfl

theorem unlistedByte_font (cfg : Config) (k : Fin 80) :
    unlistedByte cfg (fontBaseAddress cfg.fontBase + k.val) = cfg.fontTable[k] := by
  have hin : fontBaseAddress cfg.fontBase ≤ fontBaseAddress cfg.fontBase + k.val ∧
      fontBaseAddress cfg.fontBase + k.val < fontBaseAddress cfg.fontBase + 80 := by omega
  simp [unlistedByte, hin]

theorem unlistedByte_outside {cfg : Config} {a : Nat}
    (h : a < fontBaseAddress cfg.fontBase ∨ fontBaseAddress cfg.fontBase + 80 ≤ a) : unlistedByte cfg a = 0 := by
  rw [unlistedByte, dif_neg (by omega)]

theorem getV_portReset (s : State) (r : Reg) : (portReset s).getV r = 0 := Vector.getElem_replicate r.isLt

theorem keyPressed_portReset (s : State) (k : Key) : (portReset s).keyPressed k = false :=
  Vector.getElem_replicate k.isLt

/-- What a reset leaves depends on the configuration and the draw counter alone (log entry 2). -/
theorem portReset_congr {s s' : State} (hcfg : s'.cfg = s.cfg) (hdraws : s'.draws = s.draws) :
    portReset s' = portReset s := by
  rw [portReset, portReset, hcfg, hdraws]

/-- Settles O58: a reset keeps the configuration and the draw counter, so a second one changes nothing. -/
theorem resetWritesEveryElement : Obligations.ResetWritesEveryElement := by
  refine ⟨fun s => ⟨portReset s, rfl, getV_portReset s, rfl, rfl, rfl, fun k => Vector.getElem_replicate k.isLt, rfl,
    rfl, Display.pixel_blank, rfl, keyPressed_portReset s, rfl, unlistedByte_font s.cfg, fun a => unlistedByte_outside, ?_,
    fun s' => portReset_congr⟩, rfl⟩
  have hagain : portReset (portReset s) = portReset s := portReset_congr rfl rfl
  rw [transact, hagain]

end Sys2Proof.Machine
end
